-- ==== Sys2Proof/Word.lean ====
section
/-! DEFINITION. The word types of the block (00_scope.md R9, R10): 32-bit words, data bytes and
24-bit sizes and positions. All values are unsigned. -/

namespace Sys2Proof

/-- A register value, table entry, command word or residue modulo P (00_scope.md R9). -/
abbrev Word := BitVec 32

/-- A data byte, or an index of a 256-entry table (00_scope.md R12, 41_tables.md R130). -/
abbrev Byte := BitVec 8

/-- A window size or a window position (10_state.md R23, R24). -/
abbrev Size := BitVec 24

/-- A lookup table: 256 words indexed by a byte value (41_tables.md R130). -/
abbrev Table := Vector Word 256

namespace Word

/-- `zext_32` (00_scope.md R10). -/
def zext {n : Nat} (v : BitVec n) : Word := v.setWidth 32

/-- The all-ones word: the pre- and post-inversion constant (00_scope.md R2). -/
def allOnes : Word := 0xFFFFFFFF#32

end Word

end Sys2Proof
end

