-- ==== Sys2Proof/Syntax.lean ====
section
/-! DEFINITION. The commands of the block, one constructor per row of spec/opcode_table.json
(30_encoding.md R86). -/

namespace Sys2Proof

/-- The table a TBLRD reads: SEL = 0 is STD, SEL = 1 is PREFIX (30_encoding.md R85). -/
inductive TableSel where
  | std
  | prefixTable
  deriving DecidableEq, Repr

/-- A command. A window size and a reduction count are counts (30_encoding.md R83, R85); data bytes
and table indexes are 8-bit fields (R84, R85). -/
inductive Instr where
  /-- NOP (43_control.md R200). -/
  | nop
  /-- CONFIG W (42_engine.md R160). -/
  | config (w : Nat)
  /-- FILL b (42_engine.md R162). -/
  | fill (b : Byte)
  /-- STEP b (42_engine.md R166). -/
  | step (b : Byte)
  /-- RESTART (42_engine.md R168). -/
  | restart
  /-- CLRERR (43_control.md R203). -/
  | clrerr
  /-- MUL (40_gf2_arith.md R111). -/
  | mul
  /-- RED k (40_gf2_arith.md R112). -/
  | red (k : Nat)
  /-- TBLRD sel, idx (41_tables.md R140). -/
  | tblrd (sel : TableSel) (idx : Byte)
  deriving DecidableEq, Repr

end Sys2Proof
end

