-- ==== Sys2Proof/Machine/Operands.lean ====
section
/-! DEFINITION. Operand assembly: the fields of a command word (30_encoding.md R81 to R85), and the
byte lanes of a register word (20_memory.md R57). -/

namespace Sys2Proof.Machine.Operands

/-- OPC = v[31:24] (30_encoding.md R82). -/
def opc (v : Word) : Byte := v.extractLsb' 24 8

/-- ARG = v[23:0] (30_encoding.md R80): all of it is reserved in format N. -/
def arg (v : Word) : BitVec 24 := v.extractLsb' 0 24

/-- The reserved bits [23:8] of formats B and K (30_encoding.md R81). -/
def reservedByteForm (v : Word) : BitVec 16 := v.extractLsb' 8 16

/-- The reserved bits [23:9] of format T (30_encoding.md R81). -/
def reservedTableForm (v : Word) : BitVec 15 := v.extractLsb' 9 15

/-- WIMM = v[23:0], the window size, unsigned (30_encoding.md R83). -/
def wimm (v : Word) : Nat := (arg v).toNat

/-- BYTE = v[7:0] (30_encoding.md R84). -/
def byteField (v : Word) : Byte := v.extractLsb' 0 8

/-- K = v[7:0], the reduction count, unsigned (30_encoding.md R85). -/
def countField (v : Word) : Nat := (v.extractLsb' 0 8).toNat

/-- SEL = v[8] (30_encoding.md R85). -/
def selField (v : Word) : TableSel := if v.getLsbD 8 then .prefixTable else .std

/-- IDX = v[7:0] (30_encoding.md R85). -/
def idxField (v : Word) : Byte := v.extractLsb' 0 8

/-- SEL as the bit the word holds (30_encoding.md R85). -/
def selBit : TableSel → BitVec 1
  | .std => 0#1
  | .prefixTable => 1#1

/-- Byte lane k, for k = 0..3, carries bits [8k+7:8k] (20_memory.md R57). -/
def byteLane (v : Word) (k : Nat) : Byte := v.extractLsb' (8 * k) 8

/-- The word whose byte lanes 0..3 are the four bytes (20_memory.md R57). -/
def wordOfLanes (b0 b1 b2 b3 : Byte) : Word := b3 ++ b2 ++ b1 ++ b0

end Sys2Proof.Machine.Operands
end

