-- ==== Sys2Proof/WellFormed.lean ====
section
/-! DEFINITION. Which commands a 32-bit word can encode: the operand ranges of 30_encoding.md R83
and R85 (R91: an operand out of its range is an assembly error). -/

namespace Sys2Proof

/-- Every operand fits its field: WIMM is 0..2^24−1 (30_encoding.md R83) and K is 0..255 (R85). The
other operands are 8-bit or 1-bit by their type. -/
def Instr.wellFormed : Instr → Bool
  | .nop => true
  | .config w => decide (w < 2 ^ 24)
  | .fill _ => true
  | .step _ => true
  | .restart => true
  | .clrerr => true
  | .mul => true
  | .red k => decide (k < 2 ^ 8)
  | .tblrd _ _ => true

end Sys2Proof
end

