-- ==== Sys2Proof/Decode.lean ====
section
/-! DEFINITION. Decoding and encoding of command words (30_encoding.md R80 to R90). -/

namespace Sys2Proof

open Machine.Operands

/-- Why a word is no command. Both raise E_ILLEGAL (30_encoding.md R87, R88); log entry 14. -/
inductive DecodeError where
  /-- The opcode is 0x09 to 0xFF (30_encoding.md R87). -/
  | reservedOpcode
  /-- A reserved bit of the opcode's format is one (30_encoding.md R88). -/
  | reservedBits
  deriving DecidableEq, Repr

/-- The command, where the reserved bits of its format are zero (30_encoding.md R88). -/
def ifZero {n : Nat} (reserved : BitVec n) (i : Instr) : Except DecodeError Instr :=
  if reserved = 0#n then .ok i else .error .reservedBits

/-- Decoding, total on every 32-bit word, by the case tree of 30_encoding.md R90. -/
def decode (v : Word) : Except DecodeError Instr :=
  match (opc v).toNat with
  | 0x00 => ifZero (arg v) .nop
  | 0x01 => .ok (.config (wimm v))
  | 0x02 => ifZero (reservedByteForm v) (.fill (byteField v))
  | 0x03 => ifZero (reservedByteForm v) (.step (byteField v))
  | 0x04 => ifZero (arg v) .restart
  | 0x05 => ifZero (arg v) .clrerr
  | 0x06 => ifZero (arg v) .mul
  | 0x07 => ifZero (reservedByteForm v) (.red (countField v))
  | 0x08 => ifZero (reservedTableForm v) (.tblrd (selField v) (idxField v))
  | _ => .error .reservedOpcode

/-! ### The encoder -/

/-- Format N (30_encoding.md R81). -/
def wordN (op : Byte) : Word := op ++ 0#24

/-- Format C (30_encoding.md R81). -/
def wordC (op : Byte) (w : Nat) : Word := op ++ BitVec.ofNat 24 w

/-- Formats B and K, which lay their bits out alike (30_encoding.md R81). -/
def wordB (op : Byte) (b : Byte) : Word := op ++ 0#16 ++ b

/-- Format T (30_encoding.md R81). -/
def wordT (op : Byte) (sel : TableSel) (idx : Byte) : Word := op ++ 0#15 ++ selBit sel ++ idx

/-- The word of a well-formed command, from the formats and opcodes of 30_encoding.md R81, R86. -/
def encode : Instr → Word
  | .nop => wordN 0x00#8
  | .config w => wordC 0x01#8 w
  | .fill b => wordB 0x02#8 b
  | .step b => wordB 0x03#8 b
  | .restart => wordN 0x04#8
  | .clrerr => wordN 0x05#8
  | .mul => wordN 0x06#8
  | .red k => wordB 0x07#8 (BitVec.ofNat 8 k)
  | .tblrd sel idx => wordT 0x08#8 sel idx

/-! ### The opcode map -/

/-- The mask and match words of a command's row of 30_encoding.md R86. -/
def opcodeRow : Instr → Word × Word
  | .nop => (0xFFFFFFFF#32, 0x00000000#32)
  | .config _ => (0xFF000000#32, 0x01000000#32)
  | .fill _ => (0xFFFFFF00#32, 0x02000000#32)
  | .step _ => (0xFFFFFF00#32, 0x03000000#32)
  | .restart => (0xFFFFFFFF#32, 0x04000000#32)
  | .clrerr => (0xFFFFFFFF#32, 0x05000000#32)
  | .mul => (0xFFFFFFFF#32, 0x06000000#32)
  | .red _ => (0xFFFFFF00#32, 0x07000000#32)
  | .tblrd _ _ => (0xFFFFFE00#32, 0x08000000#32)

/-- The nine rows of 30_encoding.md R86, as (mask, match), in the table's order. -/
def opcodeRows : List (Word × Word) :=
  [(0xFFFFFFFF#32, 0x00000000#32), (0xFF000000#32, 0x01000000#32), (0xFFFFFF00#32, 0x02000000#32),
   (0xFFFFFF00#32, 0x03000000#32), (0xFFFFFFFF#32, 0x04000000#32), (0xFFFFFFFF#32, 0x05000000#32),
   (0xFFFFFFFF#32, 0x06000000#32), (0xFFFFFF00#32, 0x07000000#32), (0xFFFFFE00#32, 0x08000000#32)]

/-- A word v selects a row when `(v & mask) = match` (30_encoding.md R86). -/
def selectsRow (v : Word) (row : Word × Word) : Bool := (v &&& row.1) == row.2

/-! ### The host's view -/

/-- The command of the word whose bits are `w`, of which the table gives `nbits`; the bits above
are zero. A command is one 32-bit word, so no byte order enters (30_encoding.md R80). -/
def decodeTableWord (nbits w : Nat) : Option Instr :=
  match decode (BitVec.ofNat 32 (w % 2 ^ nbits)) with
  | .ok i => some i
  | .error _ => none

end Sys2Proof
end

