-- ==== Sys2Proof/Config.lean ====
section
/-! DEFINITION. What an implementation fixes, and the free values: the parameter WMAX
(00_scope.md R9) and the contents of the two memories that reset leaves unspecified
(10_state.md R40). -/

namespace Sys2Proof

/-- The parameters of one block. WMAX is OPEN (00_scope.md R9): every statement about a state
holds for every value of it. Log entry 3 (DESIGN CHOICE): the parameter stands in the state as a
constant, because the host's `step` takes no other argument. -/
structure Config where
  /-- `WMAX`, the capacity of the sliding_window_buffer in bytes. -/
  wmax : Size
  deriving DecidableEq, Repr

namespace Config

/-- The constraint 1 ≤ WMAX ≤ 2^24 − 1 of 00_scope.md R9; the upper bound is the field's width. -/
def wf (c : Config) : Bool := c.wmax != 0#24

/-- The reference configuration of 95_test_vectors.md: WMAX = 4096 (00_scope.md R9). -/
def reference : Config := { wmax := 4096#24 }

/-- The byte a window slot holds before anything is written to it after a reset
(10_state.md R40: "each byte is any value"). A free value, chosen by the number of resets so far
and the slot. Log entry 4 (DESIGN CHOICE): nothing constrains it. -/
opaque winPowerUp : Nat → Nat → Byte

/-- The contents of PREFIX before the first CONFIG after a reset (10_state.md R40: "any value").
A free value, chosen by the number of resets so far. Log entry 5 (DESIGN CHOICE). -/
opaque prefixPowerUp : Nat → Table

/-- What `(p + 1) mod WSIZE` is for WSIZE = 0, which the spec does not define and no run reaches
(42_engine.md R164, 10_state.md R23). A free value. Log entry 15 (DESIGN CHOICE). -/
opaque positionWithoutWindow : Size → Size

end Config

end Sys2Proof
end

