-- ==== Sys2Proof/Machine/State.lean ====
section
/-! DEFINITION. The state of the block (10_state.md R20), the host's moves, the faults and
refusals, and the state after reset (R40). -/

namespace Sys2Proof.Machine

/-- PHASE (10_state.md R22). The value 3 is never produced and is left out of the type (R22;
93_implementation_defined.md row 9 allows it). -/
inductive Phase where
  /-- 0: no valid window size, table or constant. -/
  | unconfigured
  /-- 1: configured, with fewer than W bytes of the first window loaded. -/
  | fill
  /-- 2: a full window is held. -/
  | run
  deriving DecidableEq, Repr

/-- The error codes (60_exceptions.md R221). Codes 5 to 15 are never produced and are left out of
the type. -/
inductive ErrCode where
  /-- 0, NONE: no error recorded. -/
  | none
  /-- 1, E_ILLEGAL (60_exceptions.md R222). -/
  | illegal
  /-- 2, E_BAD_W (60_exceptions.md R223). -/
  | badW
  /-- 3, E_NOT_CONFIGURED (60_exceptions.md R224). -/
  | notConfigured
  /-- 4, E_PHASE (60_exceptions.md R225). -/
  | phase
  deriving DecidableEq, Repr

/-- One interaction of the host with the block (60_exceptions.md R240). An access names its width
in bits, so that an access the spec refuses can be written down (20_memory.md R54). -/
inductive HostMove where
  /-- A register read at a byte offset. -/
  | read (width : Nat) (off : BitVec 8)
  /-- A register write at a byte offset; a write to CMD is a command. -/
  | write (width : Nat) (off : BitVec 8) (v : Word)
  /-- Assertion and release of the reset input (70_reset_and_hazards.md R260; log entry 8). -/
  | reset
  deriving DecidableEq, Repr

/-- A byte memory: (slot, byte) pairs with strictly rising slots. A slot that is not listed has not
been written since reset. -/
abbrev Memory := List Host.Cell

/-- The complete state of the block (10_state.md R20), and beside it the model's own fields:
the constant parameters, the count of resets, the host's moves not yet served, and the values its
reads returned. -/
@[ext]
structure State where
  /-- The parameters (00_scope.md R9). No step writes them. -/
  cfg : Config
  /-- PHASE (10_state.md R22). -/
  phase : Phase
  /-- ERR, the sticky error flag (10_state.md R22). -/
  err : Bool
  /-- ERRCODE (10_state.md R22). -/
  errcode : ErrCode
  /-- WSIZE, the window size W (10_state.md R23). -/
  wsize : Size
  /-- POS, the position counter (10_state.md R24). -/
  pos : Size
  /-- ACC, the un-complemented CRC accumulator (10_state.md R25, R26). -/
  acc : Word
  /-- LAST_OUT, the value returned by the last STEP (10_state.md R28). -/
  lastOut : Word
  /-- XPOW (10_state.md R29). -/
  xpow : Word
  /-- CRCXOR (10_state.md R30). -/
  crcxor : Word
  /-- OPA (10_state.md R31). -/
  opa : Word
  /-- OPB (10_state.md R31). -/
  opb : Word
  /-- AUXRES (10_state.md R32). -/
  auxres : Word
  /-- WIN, the sliding_window_buffer (10_state.md R36). -/
  win : Memory
  /-- STD, the standard table's ROM (10_state.md R38). No step writes it. -/
  std : Table
  /-- PREFIX, the prefix-removal table (10_state.md R39); `none` is R40's "unspecified": nothing
  has written it since reset. -/
  prefixTable : Option Table
  /-- How many resets the host has applied: it selects the free values (log entry 6). -/
  epoch : Nat
  /-- The host's moves not yet served, oldest first (log entry 1). -/
  pending : List HostMove
  /-- The values the host's reads returned, oldest first (60_exceptions.md R241; log entry 2). -/
  reads : List Word
  deriving DecidableEq, Repr

/-- What stops the machine. The spec's own errors are no faults: they are recorded in STATUS
(60_exceptions.md R220). -/
inductive Fault where
  /-- FILL or STEP addressed a window slot at or above WMAX, which does not exist
  (20_memory.md R60). Unreachable, by 10_state.md R24 and R41; safe (log entry 7). -/
  | windowSlotAbsent
  deriving DecidableEq, Repr

/-- Why an access has no step. -/
inductive Refusal where
  /-- A command without a meaning in the model. No arm raises it; safe. -/
  | notModelled (mnemonic : String)
  /-- A host access of a width other than 32 bits (20_memory.md R54: "the access has no step");
  raised by `serve`; safe. -/
  | accessWidth
  /-- A 32-bit access whose offset is not a multiple of 4 (20_memory.md R55); raised by `serve`;
  safe. -/
  | accessMisaligned
  deriving DecidableEq, Repr

/-- The outcome of a step of this machine. -/
abbrev Result := Host.Outcome State Fault Refusal

/-- The block with parameters `c` right after its first reset (10_state.md R40), with no access
issued yet. -/
def State.powerOn (c : Config) : State where
  cfg := c
  phase := .unconfigured
  err := false
  errcode := .none
  wsize := 0#24
  pos := 0#24
  acc := 0#32
  lastOut := 0#32
  xpow := 0#32
  crcxor := 0#32
  opa := 0#32
  opb := 0#32
  auxres := 0#32
  win := []
  std := Rom.std
  prefixTable := none
  epoch := 0
  pending := []
  reads := []

/-- The machine right after reset, in the reference configuration (log entry 3). -/
def State.reset : State := State.powerOn Config.reference

end Sys2Proof.Machine
end

