-- ==== Sys2Proof/Machine/Flags.lean ====
section
/-! DEFINITION. The STATUS register's fields and word (10_state.md R22, 20_memory.md R52). -/

namespace Sys2Proof.Machine

/-- PHASE as STATUS[1:0] (10_state.md R22). -/
def Phase.bits : Phase → BitVec 2
  | .unconfigured => 0#2
  | .fill => 1#2
  | .run => 2#2

/-- ERRCODE as STATUS[7:4] (60_exceptions.md R221). -/
def ErrCode.bits : ErrCode → BitVec 4
  | .none => 0#4
  | .illegal => 1#4
  | .badW => 2#4
  | .notConfigured => 3#4
  | .phase => 4#4

/-- The STATUS word, `zext_32({ERRCODE[3:0], 0b0, ERR, PHASE[1:0]})` (20_memory.md R52). -/
def State.statusWord (s : State) : Word :=
  Word.zext (s.errcode.bits ++ 0#1 ++ BitVec.ofBool s.err ++ s.phase.bits)

end Sys2Proof.Machine
end

