-- ==== Sys2Proof/Machine/Gf2.lean ====
section
/-! DEFINITION. The gf2_poly_reducer and the gf2_poly_multiplier (40_gf2_arith.md R100 to R110).
Every value is a residue modulo P(x) in the reflected representation of 00_scope.md R11: bit 31−k is
the coefficient of x^k. -/

namespace Sys2Proof.Machine.Gf2

/-- The generator constant G, which is x^32 mod P (00_scope.md R2, 40_gf2_arith.md R107). -/
def gen : Word := 0xEDB88320#32

/-- ONE, the polynomial 1 (40_gf2_arith.md R107). -/
def one : Word := 0x80000000#32

/-- X, the polynomial x (40_gf2_arith.md R107). -/
def x : Word := 0x40000000#32

/-- The reduction step: multiplication by x modulo P (40_gf2_arith.md R100, R101). -/
def reduce (v : Word) : Word := (v >>> 1) ^^^ (if v.getLsbD 0 then gen else 0#32)

/-- `reduce^k(v)` (40_gf2_arith.md R102). -/
def reduceN : Nat → Word → Word
  | 0, v => v
  | k + 1, v => reduce (reduceN k v)

/-- The inverse of the reduction step (40_gf2_arith.md R101). -/
def unreduce (u : Word) : Word :=
  if u.getLsbD 31 then ((u ^^^ gen) <<< 1) ||| 1#32 else u <<< 1

/-- The multiplier's loop, with `n` iterations to go (40_gf2_arith.md R103). -/
def mulLoop : Nat → Word → Word → Word → Word
  | 0, _, _, acc => acc
  | n + 1, a, b, acc =>
    mulLoop n (a <<< 1) (reduce b) (if a.getLsbD 31 then acc ^^^ b else acc)

/-- `gf2mul(a, b)`, the shift-and-XOR product of exactly 32 iterations (40_gf2_arith.md R103). -/
def gf2mul (a b : Word) : Word := mulLoop 32 a b 0#32

/-- `xpow(e)`, which is x^e mod P (40_gf2_arith.md R108). -/
def xpow (e : Nat) : Word := reduceN e one

/-- The square-and-multiply loop over the bits `i−1 … 0` of `e` (40_gf2_arith.md R109). -/
def squareMultiply (e : Nat) : Nat → Word → Word
  | 0, r => r
  | i + 1, r =>
    squareMultiply e i (if e.testBit i then gf2mul (gf2mul r r) x else gf2mul r r)

/-- The square-and-multiply loop started at bit position `m` (40_gf2_arith.md R109: any
m ≥ n−1 gives the same result). -/
def xpowFrom (m e : Nat) : Word := squareMultiply e (m + 1) one

/-- `xpow_sm(e)`, for e ≥ 1: the loop started at bit n−1, where n is the exact bit length of e
(40_gf2_arith.md R109). -/
def xpowSm (e : Nat) : Word := xpowFrom e.log2 e

end Sys2Proof.Machine.Gf2
end

