-- ==== Sys2Proof/Machine/TableBuilder.lean ====
section
/-! DEFINITION. The table builder (41_tables.md R131) and the byte-wise update
(40_gf2_arith.md R105). -/

namespace Sys2Proof.Machine

open Gf2

/-- The word at a byte index; every index of the type is in range (41_tables.md R130). -/
def tableEntry (t : Table) (i : Byte) : Word := t[i.toNat]'i.isLt

/-- The word at an index the builder names; the indices it names are below 256
(41_tables.md R131). -/
def buildRead (t : Table) (i : Nat) : Word := t.toArray.getD i 0#32

/-- `t[i] <- v` of the builder (41_tables.md R131). -/
def buildWrite (t : Table) (i : Nat) (v : Word) : Table := t.setIfInBounds i v

/-- The builder's first loop: assign the running value, then step it (41_tables.md R131, R132). -/
def seedEntries : List Nat → Word → Table → Table
  | [], _, t => t
  | k :: ks, v, t => seedEntries ks (reduce v) (buildWrite t k v)

/-- One closure pass: `t[i ^ j] = t[i] ^ t[j]` for each j of the list (41_tables.md R131). -/
def closeBlock (i : Nat) : List Nat → Table → Table
  | [], t => t
  | j :: js, t => closeBlock i js (buildWrite t (i ^^^ j) (buildRead t i ^^^ buildRead t j))

/-- The closure passes over the block sizes, each with j in [1, i) (41_tables.md R131). -/
def closeBlocks : List Nat → Table → Table
  | [], t => t
  | i :: is, t => closeBlocks is (closeBlock i (List.range' 1 (i - 1)) t)

/-- `build_table(u)` (41_tables.md R131). Block size 256 is excluded (90_conflicts.md C1). The
builder writes every index, so the zeros it starts from reach no entry but t[0]. -/
def buildTable (u : Word) : Table :=
  closeBlocks [2, 4, 8, 16, 32, 64, 128]
    (seedEntries [128, 64, 32, 16, 8, 4, 2, 1] u (Vector.replicate 256 0#32))

/-- The seed of the prefix-removal table, `gf2mul(G, XPOW)` (41_tables.md R137). -/
def prefixSeed (xp : Word) : Word := gf2mul gen xp

/-- The correction constant, `gf2mul(0xFFFFFFFF, XPOW) ^ 0xFFFFFFFF` (42_engine.md R161). -/
def correction (xp : Word) : Word := gf2mul Word.allOnes xp ^^^ Word.allOnes

/-- The index of the standard table that byte `b` selects from accumulator `c`: bits 7..0 of
`zext_32(b) ^ c` (40_gf2_arith.md R105). -/
def updateIndex (c : Word) (b : Byte) : Byte := (Word.zext b ^^^ c).setWidth 8

/-- `byte_update(c, b)` over the standard table `std` (40_gf2_arith.md R105). -/
def byteUpdate (std : Table) (c : Word) (b : Byte) : Word :=
  tableEntry std (updateIndex c b) ^^^ (c >>> 8)

end Sys2Proof.Machine
end

