-- ==== Sys2Proof/Machine/Ops.lean ====
section
/-! DEFINITION. The shared operations over the state: the error record, the window memory, the
tables, the position counter and the updates the commands are made of. -/

namespace Sys2Proof.Machine

/-! ### The error record -/

/-- What `raise EngineError(code)` does to the state: it records the first error and nothing else
(60_exceptions.md R227, R228). -/
def State.recordError (c : ErrCode) (s : State) : State :=
  if s.err then s else { s with err := true, errcode := c }

/-- `raise EngineError(code)`: the command ends with the error record as its only effect, and the
block goes on (00_scope.md R13, 60_exceptions.md R220, R227). -/
def raise (c : ErrCode) (s : State) : Result := .next (s.recordError c)

/-- The end of an error condition (43_control.md R203; 60_exceptions.md R232: there is no other
return). -/
def State.clearError (s : State) : State := { s with err := false, errcode := .none }

/-! ### The sliding_window_buffer -/

/-- The byte listed for a slot, `none` where nothing has been written since reset. -/
def Memory.read : Memory → Nat → Option Byte
  | [], _ => none
  | (k, c) :: rest, i => if k = i then some c else Memory.read rest i

/-- Store a byte at a slot; every other slot is left alone (20_memory.md R60). The list stays
sorted. -/
def Memory.write : Memory → Nat → Byte → Memory
  | [], i, b => [(i, b)]
  | (k, c) :: rest, i, b =>
    if i < k then (i, b) :: (k, c) :: rest
    else if k = i then (i, b) :: rest
    else (k, c) :: Memory.write rest i b

/-- The canonical form: strictly rising slots. An unlisted slot has no value, so no entry can equal
what an unlisted slot reads as. -/
def Memory.wf (m : Memory) : Bool := decide (m.Pairwise fun p q => p.1 < q.1)

/-- Slot `i` exists: 0 ≤ i < WMAX (20_memory.md R60). -/
def State.slotExists (s : State) (i : Nat) : Bool := decide (i < s.cfg.wmax.toNat)

/-- The byte slot `i` holds; one that nothing has written since reset holds a free value
(10_state.md R40; log entry 4). -/
def State.winByte (s : State) (i : Nat) : Byte :=
  (s.win.read i).getD (Config.winPowerUp s.epoch i)

/-- `WIN[i]` (20_memory.md R60); a slot that does not exist is a fault (log entry 7). -/
def State.readWin (s : State) (i : Nat) : Except Fault Byte :=
  if s.slotExists i then .ok (s.winByte i) else .error .windowSlotAbsent

/-- The state with byte `b` stored in slot `i` (20_memory.md R60). -/
def State.storeWin (s : State) (i : Nat) (b : Byte) : State := { s with win := s.win.write i b }

/-- `WIN[i] <- b` (20_memory.md R60); a slot that does not exist is a fault (log entry 7). -/
def State.writeWin (s : State) (i : Nat) (b : Byte) : Except Fault State :=
  if s.slotExists i then .ok (s.storeWin i b) else .error .windowSlotAbsent

/-- `next_pos(p) = (p + 1) mod WSIZE` (42_engine.md R164). WSIZE is not 0 in phases FILL and RUN
(10_state.md R23); a remainder by 0 is a free value (log entry 15). -/
def nextPos (wsize p : Size) : Size :=
  if wsize = 0#24 then Config.positionWithoutWindow p
  else BitVec.ofNat 24 ((p.toNat + 1) % wsize.toNat)

/-- The bytes of the first window loaded so far, oldest first: `WIN[0] … WIN[POS−1]`
(10_state.md R37, phase FILL). -/
def State.loadedBytes (s : State) : List Byte := (List.range s.pos.toNat).map s.winByte

/-- The window in time order, oldest first: `WIN[POS], WIN[(POS+1) mod W], …, WIN[(POS+W−1) mod W]`
(10_state.md R37, phase RUN). -/
def State.window (s : State) : List Byte :=
  (List.range s.wsize.toNat).map fun k => s.winByte ((s.pos.toNat + k) % s.wsize.toNat)

/-! ### The tables and the observed checksum -/

/-- `STD[i]` (20_memory.md R61). -/
def State.stdEntry (s : State) (i : Byte) : Word := tableEntry s.std i

/-- `PREFIX[i]` (20_memory.md R62); before the first CONFIG after a reset, a free value
(10_state.md R40; log entry 5). -/
def State.prefixEntry (s : State) (i : Byte) : Word :=
  tableEntry (s.prefixTable.getD (Config.prefixPowerUp s.epoch)) i

/-- CRC_OUT, the combinational `ACC ^ CRCXOR` (10_state.md R27). -/
def State.crcOut (s : State) : Word := s.acc ^^^ s.crcxor

/-! ### Updates -/

/-- `AUXRES <- v` (10_state.md R32). -/
def State.setAuxres (s : State) (v : Word) : State := { s with auxres := v }

/-- `OPA <- v` (10_state.md R31). -/
def State.setOpa (s : State) (v : Word) : State := { s with opa := v }

/-- `OPB <- v` (10_state.md R31). -/
def State.setOpb (s : State) (v : Word) : State := { s with opb := v }

/-- The constants and the table of window size `w` (42_engine.md R160). All 256 entries of PREFIX
are written at once (20_memory.md R62, R63). -/
def State.loadConstants (s : State) (w : Nat) : State :=
  { s with
    wsize := BitVec.ofNat 24 w
    xpow := Gf2.xpow (8 * w)
    crcxor := correction (Gf2.xpow (8 * w))
    prefixTable := some (buildTable (prefixSeed (Gf2.xpow (8 * w)))) }

/-- The start of a stream: ACC = 0, POS = 0, PHASE = FILL (42_engine.md R160, R168). -/
def State.startStream (s : State) : State := { s with acc := 0#32, pos := 0#24, phase := .fill }

/-- The value a host read returned joins the observation (60_exceptions.md R241). -/
def State.logRead (s : State) (v : Word) : State := { s with reads := s.reads ++ [v] }

/-- The state with the host's moves still to be served replaced. -/
def State.withPending (s : State) (ms : List HostMove) : State := { s with pending := ms }

/-- The state when reset is released (70_reset_and_hazards.md R260, R262; 10_state.md R40): every
register at its reset value, WIN and PREFIX unspecified anew, the ROM and the parameters as they
were. What the host has still to send and what it has read are not the block's (log entry 8). -/
def State.afterReset (s : State) : State :=
  { State.powerOn s.cfg with
    std := s.std
    epoch := s.epoch + 1
    pending := s.pending
    reads := s.reads }

end Sys2Proof.Machine
end

