-- ==== Sys2Proof/Machine/Arithmetic.lean ====
section
/-! DEFINITION. The test commands of the arithmetic units, MUL and RED (40_gf2_arith.md). -/

namespace Sys2Proof.Machine

/-- MUL: AUXRES <- gf2mul(OPA, OPB); legal in every phase (40_gf2_arith.md R111). -/
def execMul (s : State) : Result := .next (s.setAuxres (Gf2.gf2mul s.opa s.opb))

/-- RED k: AUXRES <- reduce^k(OPA); legal in every phase (40_gf2_arith.md R112). -/
def execRed (k : Nat) (s : State) : Result := .next (s.setAuxres (Gf2.reduceN k s.opa))

end Sys2Proof.Machine
end

