-- ==== Sys2Proof/Machine/Control.lean ====
section
/-! DEFINITION. The control commands NOP and CLRERR (43_control.md). -/

namespace Sys2Proof.Machine

/-- NOP: no effect, in every phase (43_control.md R200). -/
def execNop (s : State) : Result := .next s

/-- CLRERR: ERR and ERRCODE become 0; legal in every phase (43_control.md R203). -/
def execClrerr (s : State) : Result := .next s.clearError

end Sys2Proof.Machine
end

