-- ==== Sys2Proof/Machine/Engine.lean ====
section
/-! DEFINITION. The engine's commands CONFIG, FILL, STEP and RESTART (42_engine.md). -/

namespace Sys2Proof.Machine

/-- CONFIG W: check 1 ≤ W ≤ WMAX, compute every W-dependent constant and start a stream; legal in
every phase (42_engine.md R160). -/
def execConfig (w : Nat) (s : State) : Result :=
  if w = 0 ∨ s.cfg.wmax.toNat < w then raise .badW s
  else .next (s.loadConstants w).startStream

/-- FILL b: append one byte to the first window (42_engine.md R162). -/
def execFill (b : Byte) (s : State) : Result :=
  match s.phase with
  | .unconfigured => raise .notConfigured s
  | .run => raise .phase s
  | .fill =>
    match s.writeWin s.pos.toNat b with
    | .error f => .fault f
    | .ok t =>
      .next { t with
        acc := byteUpdate s.std s.acc b
        phase := if s.pos.toNat + 1 = s.wsize.toNat then .run else .fill
        pos := nextPos s.wsize s.pos }

/-- The accumulator STEP leaves, from the arriving byte `b` and the departing byte `old`
(42_engine.md R166). -/
def State.slideAcc (s : State) (b old : Byte) : Word :=
  byteUpdate s.std s.acc b ^^^ s.prefixEntry old

/-- STEP b: report the current window's checksum, then slide the window by one byte. The slot is
read before it is written (42_engine.md R166, 20_memory.md R60). -/
def execStep (b : Byte) (s : State) : Result :=
  match s.phase with
  | .unconfigured => raise .notConfigured s
  | .fill => raise .phase s
  | .run =>
    match s.readWin s.pos.toNat with
    | .error f => .fault f
    | .ok old =>
      match s.writeWin s.pos.toNat b with
      | .error f => .fault f
      | .ok t =>
        .next { t with
          acc := s.slideAcc b old
          lastOut := s.crcOut
          pos := nextPos s.wsize s.pos }

/-- RESTART: begin a new stream with the current window size (42_engine.md R168). -/
def execRestart (s : State) : Result :=
  match s.phase with
  | .unconfigured => raise .notConfigured s
  | .fill => .next s.startStream
  | .run => .next s.startStream

end Sys2Proof.Machine
end

