-- ==== Sys2Proof/Machine/TableRead.lean ====
section
/-! DEFINITION. The table read command TBLRD (41_tables.md). -/

namespace Sys2Proof.Machine

/-- TBLRD sel, idx: one entry of STD or PREFIX into AUXRES; PREFIX is refused in phase
UNCONFIGURED (41_tables.md R140). -/
def execTblrd (sel : TableSel) (idx : Byte) (s : State) : Result :=
  match sel with
  | .std => .next (s.setAuxres (s.stdEntry idx))
  | .prefixTable =>
    match s.phase with
    | .unconfigured => raise .notConfigured s
    | .fill => .next (s.setAuxres (s.prefixEntry idx))
    | .run => .next (s.setAuxres (s.prefixEntry idx))

end Sys2Proof.Machine
end

