-- ==== Sys2Proof/Machine/Dispatch.lean ====
section
/-! DEFINITION. One arm per command (30_encoding.md R86). -/

namespace Sys2Proof.Machine

/-- The meaning of each command (30_encoding.md R86, R90). -/
def exec (i : Instr) (s : State) : Host.Outcome State Fault Refusal :=
  match i with
  | .nop => Sys2Proof.Machine.execNop s
  | .config w => Sys2Proof.Machine.execConfig w s
  | .fill b => Sys2Proof.Machine.execFill b s
  | .step b => Sys2Proof.Machine.execStep b s
  | .restart => Sys2Proof.Machine.execRestart s
  | .clrerr => Sys2Proof.Machine.execClrerr s
  | .mul => Sys2Proof.Machine.execMul s
  | .red k => Sys2Proof.Machine.execRed k s
  | .tblrd sel idx => Sys2Proof.Machine.execTblrd sel idx s

end Sys2Proof.Machine
end

