-- ==== Sys2Proof/Machine/HostPort.lean ====
section
/-! DEFINITION. The host's access to the register space (20_memory.md R50 to R56), the execution of
a command word (30_encoding.md R90), and the service of one host move. -/

namespace Sys2Proof.Machine

/-- `HostRead(off)` for an aligned offset (20_memory.md R52; reserved offsets R56). -/
def hostRead (off : BitVec 8) (s : State) : Word :=
  match off.toNat with
  | 0x00 => 0#32
  | 0x04 => s.statusWord
  | 0x08 => Word.zext s.wsize
  | 0x0C => Word.zext s.pos
  | 0x10 => s.acc
  | 0x14 => s.crcOut
  | 0x18 => s.lastOut
  | 0x1C => s.xpow
  | 0x20 => s.crcxor
  | 0x24 => s.opa
  | 0x28 => s.opb
  | 0x2C => s.auxres
  | 0x30 => Gf2.gen
  | 0x34 => Word.zext s.cfg.wmax
  | _ => 0#32

/-- `ExecuteCommand(v)`: the decoded command, or E_ILLEGAL for a word that is none
(30_encoding.md R87, R88, R90). -/
def executeCommand (v : Word) (s : State) : Result :=
  match decode v with
  | .ok i => exec i s
  | .error _ => raise .illegal s

/-- `HostWrite(off, v)` for an aligned offset; read-only registers and reserved offsets ignore it
(20_memory.md R53). -/
def hostWrite (off : BitVec 8) (v : Word) (s : State) : Result :=
  match off.toNat with
  | 0x00 => executeCommand v s
  | 0x24 => .next (s.setOpa v)
  | 0x28 => .next (s.setOpb v)
  | _ => .next s

/-- Why an access has no step: its width is not 32 bits (20_memory.md R54), or its offset is not a
multiple of 4 (R55). Log entry 12. -/
def accessRefusal (width : Nat) (off : BitVec 8) : Option Refusal :=
  if width ≠ 32 then some .accessWidth
  else if off.toNat % 4 ≠ 0 then some .accessMisaligned
  else none

/-- The service of one host move (60_exceptions.md R240): a read returns its value and changes
nothing of the block (20_memory.md R52, R64). -/
def serve (m : HostMove) (s : State) : Result :=
  match m with
  | .read width off =>
    match accessRefusal width off with
    | some r => .refused r
    | none => .next (s.logRead (hostRead off s))
  | .write width off v =>
    match accessRefusal width off with
    | some r => .refused r
    | none => hostWrite off v s
  | .reset => .next s.afterReset

/-- The oldest pending move is served; with none pending the block is idle and holds its state
(20_memory.md R67, 60_exceptions.md R239). -/
def serveNext (s : State) : Result :=
  match s.pending with
  | [] => .next s
  | m :: rest => serve m (s.withPending rest)

/-- The host move that issues a command word: a 32-bit write to CMD (30_encoding.md R80). -/
def commandMove (v : Word) : HostMove := .write 32 0x00#8 v

end Sys2Proof.Machine
end

