-- ==== Sys2Proof/Machine/Step.lean ====
section
/-! DEFINITION. One step of the machine, and the placing of a command where the next step takes
it. -/

namespace Sys2Proof.Machine

/-- One step: one host access or reset is one atomic step of the block (00_scope.md R8,
20_memory.md R63). -/
def step (s : State) : Host.Outcome State Fault Refusal := serveNext s

/-- The state in which the host's next move writes the command word `w` to CMD (log entry 1). The
table gives every row 32 bits. -/
def State.withFetchWord (s : State) (nbits w : Nat) : State :=
  s.withPending (commandMove (BitVec.ofNat 32 (w % 2 ^ nbits)) :: s.pending)

end Sys2Proof.Machine
end

