-- ==== Sys2Proof/Machine/Assembler.lean ====
section
/-! DEFINITION. The assembler's statements and pseudo-instructions as sequences of host moves
(30_encoding.md R91, R92). The text form is not modelled (log entry 13). -/

namespace Sys2Proof.Machine

/-- A statement of the assembler (30_encoding.md R91) or a pseudo-instruction (R92). Operands are
the numbers the programmer wrote; a string operand is the list of its characters' ASCII codes. -/
inductive AsmStmt where
  | nop
  | config (w : Nat)
  | fill (b : Nat)
  | step (b : Nat)
  | restart
  | clrerr
  | mul
  | red (k : Nat)
  | tblrd (sel : TableSel) (i : Nat)
  /-- `.word v`: a raw command word. -/
  | word (v : Nat)
  /-- `wr off, v`. -/
  | wr (off v : Nat)
  /-- `rd off`. -/
  | rd (off : Nat)
  /-- `fills b1, b2, …, bn`. -/
  | fills (bs : List Nat)
  /-- `steps b1, b2, …, bn`. -/
  | steps (bs : List Nat)
  /-- `setops a, b`. -/
  | setops (a b : Nat)
  | rdstat
  | rdcrc
  deriving DecidableEq, Repr

/-- One command, as the host's write of its word to CMD (30_encoding.md R80). -/
def issue (i : Instr) : HostMove := commandMove (encode i)

/-- A 32-bit register write (20_memory.md R53). -/
def writeMove (off v : Nat) : HostMove := .write 32 (BitVec.ofNat 8 off) (BitVec.ofNat 32 v)

/-- A 32-bit register read (20_memory.md R52). -/
def readMove (off : Nat) : HostMove := .read 32 (BitVec.ofNat 8 off)

/-- The moves, where the operands are in range; otherwise an assembly error, which emits no word
(30_encoding.md R91). -/
def whenInRange (ok : Bool) (ms : List HostMove) : Option (List HostMove) :=
  if ok then some ms else none

/-- Every byte operand is 0..0xFF (30_encoding.md R91). -/
def allBytes (bs : List Nat) : Bool := bs.all fun b => decide (b < 2 ^ 8)

/-- The host moves a statement stands for (30_encoding.md R91, R92). -/
def assemble : AsmStmt → Option (List HostMove)
  | .nop => some [issue .nop]
  | .config w => whenInRange (decide (w < 2 ^ 24)) [issue (.config w)]
  | .fill b => whenInRange (decide (b < 2 ^ 8)) [issue (.fill (BitVec.ofNat 8 b))]
  | .step b => whenInRange (decide (b < 2 ^ 8)) [issue (.step (BitVec.ofNat 8 b))]
  | .restart => some [issue .restart]
  | .clrerr => some [issue .clrerr]
  | .mul => some [issue .mul]
  | .red k => whenInRange (decide (k < 2 ^ 8)) [issue (.red k)]
  | .tblrd sel i => whenInRange (decide (i < 2 ^ 8)) [issue (.tblrd sel (BitVec.ofNat 8 i))]
  | .word v => whenInRange (decide (v < 2 ^ 32)) [commandMove (BitVec.ofNat 32 v)]
  | .wr off v => whenInRange (decide (off < 2 ^ 8) && decide (v < 2 ^ 32)) [writeMove off v]
  | .rd off => whenInRange (decide (off < 2 ^ 8)) [readMove off]
  | .fills bs => whenInRange (allBytes bs) (bs.map fun b => issue (.fill (BitVec.ofNat 8 b)))
  | .steps bs => whenInRange (allBytes bs) (bs.map fun b => issue (.step (BitVec.ofNat 8 b)))
  | .setops a b =>
    whenInRange (decide (a < 2 ^ 32) && decide (b < 2 ^ 32)) [writeMove 0x24 a, writeMove 0x28 b]
  | .rdstat => some [readMove 0x04]
  | .rdcrc => some [readMove 0x14]

end Sys2Proof.Machine
end

