-- ==== Sys2Proof/Machine/Checksum.lean ====
section
/-! DEFINITION. What the engine computes: the un-complemented CRC and the CRC-32 of a byte sequence
(42_engine.md R169, R170), with the standard table's ROM. -/

namespace Sys2Proof.Machine

/-- `crc0(m_1 … m_n)`, the un-complemented CRC (42_engine.md R169). -/
def crc0 (m : List Byte) : Word := m.foldl (byteUpdate Rom.std) 0#32

/-- `crc32(m_1 … m_n)`, the standard CRC-32 (42_engine.md R170). -/
def crc32 (m : List Byte) : Word := m.foldl (byteUpdate Rom.std) Word.allOnes ^^^ Word.allOnes

end Sys2Proof.Machine
end

