-- ==== Sys2Proof/Safety.lean ====
section
/-! DEFINITION. What holds of every state the block can be in, and what a safe step is, in the
terms the claims use. -/

namespace Sys2Proof.Machine

/-- In phases FILL and RUN: 1 ≤ W ≤ WMAX (10_state.md R23), 0 ≤ POS < W (R24), and the constants
and PREFIX are those of the current W (R29, R30, R39). -/
structure State.Configured (s : State) : Prop where
  wsize_pos : 1 ≤ s.wsize.toNat
  wsize_le : s.wsize.toNat ≤ s.cfg.wmax.toNat
  pos_lt : s.pos.toNat < s.wsize.toNat
  xpow_eq : s.xpow = Gf2.xpow (8 * s.wsize.toNat)
  crcxor_eq : s.crcxor = correction s.xpow
  prefix_eq : s.prefixTable = some (buildTable (prefixSeed s.xpow))

/-- Slots 0 … n−1 have been written since reset (10_state.md R41). -/
def State.Written (s : State) (n : Nat) : Prop := ∀ i < n, (s.win.read i).isSome = true

/-- What each phase means for the registers: in UNCONFIGURED the stream registers are at their
reset values (10_state.md R23, R24, R40); in FILL the accumulator is the un-complemented CRC of the
bytes loaded so far (42_engine.md R171); in RUN it is that of the window in time order (R172). -/
def State.PhaseInv (s : State) : Prop :=
  match s.phase with
  | .unconfigured =>
    s.wsize = 0#24 ∧ s.pos = 0#24 ∧ s.acc = 0#32 ∧ s.lastOut = 0#32 ∧ s.xpow = 0#32 ∧
      s.crcxor = 0#32
  | .fill => s.Configured ∧ s.Written s.pos.toNat ∧ s.acc = crc0 s.loadedBytes
  | .run => s.Configured ∧ s.Written s.wsize.toNat ∧ s.acc = crc0 s.window

/-- The invariant of the block. -/
structure State.Inv (s : State) : Prop where
  /-- 1 ≤ WMAX (00_scope.md R9). -/
  params : s.cfg.wf = true
  /-- STD holds the ROM contents (10_state.md R38, 70_reset_and_hazards.md R262). -/
  rom : s.std = Rom.std
  /-- The window memory is in canonical form. -/
  winForm : s.win.wf = true
  /-- Only slots below WMAX are listed (10_state.md R36). -/
  winSlots : ∀ c ∈ s.win, c.1 < s.cfg.wmax.toNat
  /-- ERR = 0 exactly when ERRCODE = 0 (10_state.md R22). -/
  errRecord : s.err = false ↔ s.errcode = .none
  /-- The meaning of the phase. -/
  phaseInv : s.PhaseInv

/-- A step is safe when it does not end in a fault. (A refusal is an access the spec gives no step:
20_memory.md R54, R55.) -/
def State.StepSafe (s : State) : Prop := ∀ f, step s ≠ .fault f

end Sys2Proof.Machine
end

