-- ==== Sys2Proof/Certificates/Slice0/Obligations.lean ====
section
/-! DEFINITION. The statements for the provers, and the words they are stated in. -/

namespace Sys2Proof.Claims

open Machine

/-! ### Words as polynomials -/

/-- The polynomial a word stands for: bit 31−k is the coefficient of x^k (00_scope.md R11). -/
noncomputable def poly (v : Word) : Polynomial (ZMod 2) :=
  ∑ k ∈ Finset.range 32, if v.getLsbD (31 - k) then Polynomial.X ^ k else 0

/-- P(x) = x^32 + the polynomial G stands for (00_scope.md R11). -/
noncomputable def modulus : Polynomial (ZMod 2) := Polynomial.X ^ 32 + poly Gf2.gen

/-- B(x) = Σ b[k]·x^(7−k) (00_scope.md R12). -/
noncomputable def bytePoly (b : Byte) : Polynomial (ZMod 2) :=
  ∑ k ∈ Finset.range 8, if b.getLsbD k then Polynomial.X ^ (7 - k) else 0

/-- M(x) = Σ_i B_i(x)·x^(8(n−i)) of the stream m_1 … m_n, m_1 first (00_scope.md R12). -/
noncomputable def messagePoly : List Byte → Polynomial (ZMod 2)
  | [] => 0
  | b :: m => bytePoly b * Polynomial.X ^ (8 * m.length) + messagePoly m

/-- The word `v` is the residue of `p` modulo P: every word stands for a polynomial of degree at
most 31, so at most one word is (00_scope.md R11). -/
def IsResidue (v : Word) (p : Polynomial (ZMod 2)) : Prop := modulus ∣ p - poly v

/-! ### Legality by phase -/

/-- The table of 43_control.md R206: the error a well-formed command raises in a phase, `none` where
it says "ok". -/
def phaseTable (wmax : Size) : Instr → Phase → ErrCode
  | .nop, _ => .none
  | .config w, _ => if 1 ≤ w ∧ w ≤ wmax.toNat then .none else .badW
  | .fill _, .unconfigured => .notConfigured
  | .fill _, .fill => .none
  | .fill _, .run => .phase
  | .step _, .unconfigured => .notConfigured
  | .step _, .fill => .phase
  | .step _, .run => .none
  | .restart, .unconfigured => .notConfigured
  | .restart, _ => .none
  | .clrerr, _ => .none
  | .mul, _ => .none
  | .red _, _ => .none
  | .tblrd .std _, _ => .none
  | .tblrd .prefixTable _, .unconfigured => .notConfigured
  | .tblrd .prefixTable _, _ => .none

/-- The command writes a window slot (42_engine.md R165). -/
def WritesWindow : Instr → Prop
  | .fill _ => True
  | .step _ => True
  | _ => False

/-- The word `v` has opcode `op` and a one among the bits of `reserved`. -/
def HasReservedOne (op : Byte) (reserved v : Word) : Prop :=
  v.extractLsb' 24 8 = op ∧ v &&& reserved ≠ 0#32

/-! ### The register map -/

/-- The readable registers in the order of 10_state.md R21, each with its offset and the word it
reads as (20_memory.md R52). -/
def registerMap (s : State) : List (Nat × Word) :=
  [(0x00, 0#32),
   (0x04, BitVec.ofNat 32 (16 * s.errcode.bits.toNat + 4 * s.err.toNat + s.phase.bits.toNat)),
   (0x08, BitVec.ofNat 32 s.wsize.toNat), (0x0C, BitVec.ofNat 32 s.pos.toNat), (0x10, s.acc),
   (0x14, s.acc ^^^ s.crcxor), (0x18, s.lastOut), (0x1C, s.xpow), (0x20, s.crcxor), (0x24, s.opa),
   (0x28, s.opb), (0x2C, s.auxres), (0x30, 0xEDB88320#32),
   (0x34, BitVec.ofNat 32 s.cfg.wmax.toNat)]

/-! ### Runs -/

/-- Commands executed one after another, each on the state the one before it left. -/
def runCommands : List Instr → State → Result
  | [], s => .next s
  | i :: is, s =>
    match exec i s with
    | .next t => runCommands is t
    | .fault f => .fault f
    | .refused r => .refused r

/-- A host that sends the moves `ms`, and what happens then: what a run of `ms.length` steps
answers. -/
def runMoves (ms : List HostMove) (s : State) : Result :=
  Host.Core.run Sys2Proof.core ms.length (s.withPending ms)

/-- The host's driver of 42_engine.md R178 for a stream of at least `w` bytes: configure, fill the
first window, then read CRC_OUT before each further byte and after the last. -/
def driverMoves (w : Nat) (stream : List Byte) : List HostMove :=
  issue (.config w) ::
    ((stream.take w).map (fun b => issue (.fill b)) ++
      readMove 0x14 :: (stream.drop w).flatMap fun b => [issue (.step b), readMove 0x14])

/-- The windows of a stream, oldest first: its `n − W + 1` runs of `w` bytes (42_engine.md R177). -/
def windowsOf (w : Nat) (stream : List Byte) : List (List Byte) :=
  (List.range (stream.length - w + 1)).map fun k => (stream.drop k).take w

/-- After `start`, a first window `m` and further bytes `ms`, the two blocks agree on all that the
stream determines: the checksum, the accumulator, the window and, where a STEP was taken, LAST_OUT
(70_reset_and_hazards.md R264). Both runs complete. -/
def AgreeOnNewStream (start : Instr) (m ms : List Byte) (s1 s2 : State) : Prop :=
  ∃ t1 t2, runCommands (start :: (m.map .fill ++ ms.map .step)) s1 = .next t1 ∧
    runCommands (start :: (m.map .fill ++ ms.map .step)) s2 = .next t2 ∧
    t1.crcOut = t2.crcOut ∧ t1.acc = t2.acc ∧ t1.window = t2.window ∧
    (ms ≠ [] → t1.lastOut = t2.lastOut)

/-- The first window `m` is loaded: slot i holds its byte i, oldest first, ACC is its
un-complemented CRC, POS is 0 and the phase is RUN (42_engine.md R163). -/
def Loaded (t : State) (m : List Byte) : Prop :=
  (∀ i (hi : i < m.length), t.win.read i = some m[i]) ∧ t.acc = crc0 m ∧ t.pos = 0#24 ∧
    t.phase = .run ∧ t.window = m

end Sys2Proof.Claims

open Sys2Proof Sys2Proof.Machine Sys2Proof.Machine.Gf2 Sys2Proof.Claims

/-! ### GF(2) arithmetic -/

/-- 40_gf2_arith.md R101: `reduce(v)` is v·x mod P, and its laws. -/
def Obligations.ReduceIsMultiplicationByX : Prop :=
  (∀ v : Word, IsResidue (reduce v) (poly v * Polynomial.X)) ∧
  (∀ (v : Word) (i : Nat), i < 31 →
    (reduce v).getLsbD i = (v.getLsbD (i + 1) ^^ (v.getLsbD 0 && gen.getLsbD i))) ∧
  (∀ v : Word, (reduce v).getLsbD 31 = v.getLsbD 0) ∧
  reduce 0#32 = 0#32 ∧
  (∀ a b : Word, reduce (a ^^^ b) = reduce a ^^^ reduce b) ∧
  reduce 0x80000000#32 = 0x40000000#32 ∧
  reduce 0x00000001#32 = 0xEDB88320#32 ∧
  (∀ v : Word, unreduce (reduce v) = v) ∧
  (∀ u : Word, reduce (unreduce u) = u) ∧
  Function.Bijective reduce

/-- 40_gf2_arith.md R102: `reduce^k(v)` is the k-fold application, and equals v·x^k mod P. -/
def Obligations.ReducePowerIsPowerOfX : Prop :=
  ∀ (k : Nat) (v : Word),
    reduceN 0 v = v ∧ reduceN (k + 1) v = reduce (reduceN k v) ∧
    IsResidue (reduceN k v) (poly v * Polynomial.X ^ k)

/-- 40_gf2_arith.md R104: `gf2mul(a, b)` is the product of the two residues, and its laws. The last
clause says that the XOR of the 32 terms may be taken in any order. -/
def Obligations.MultiplierIsPolynomialProduct : Prop :=
  (∀ a b : Word, IsResidue (gf2mul a b) (poly a * poly b)) ∧
  (∀ a b : Word, gf2mul a b = gf2mul b a) ∧
  (∀ a b c : Word, gf2mul (gf2mul a b) c = gf2mul a (gf2mul b c)) ∧
  (∀ a b c : Word, gf2mul (a ^^^ b) c = gf2mul a c ^^^ gf2mul b c) ∧
  (∀ a b c : Word, gf2mul a (b ^^^ c) = gf2mul a b ^^^ gf2mul a c) ∧
  (∀ a : Word, gf2mul a 0#32 = 0#32) ∧
  (∀ b : Word, gf2mul 0#32 b = 0#32) ∧
  (∀ b : Word, gf2mul 0x80000000#32 b = b) ∧
  (∀ b : Word, gf2mul 0x40000000#32 b = reduce b) ∧
  (∀ (a : Word) (k : Nat), gf2mul a (xpow k) = reduceN k a) ∧
  (∀ (a b : Word) (l : List Nat), l.Perm (List.range 32) →
    gf2mul a b =
      l.foldl (fun c i => if a.getLsbD (31 - i) then c ^^^ reduceN i b else c) 0#32)

/-- 40_gf2_arith.md R109: square-and-multiply computes `xpow(e)` from any start at or above the top
bit of e; a lower start loses the bits above it. -/
def Obligations.SquareAndMultiplyIsXpow : Prop :=
  (∀ e : Nat, 1 ≤ e → xpowSm e = xpow e) ∧
  (∀ e m : Nat, e.log2 ≤ m → xpowFrom m e = xpow e) ∧
  (∀ e m : Nat, xpowFrom m e = xpow (e % 2 ^ (m + 1)))

/-- 40_gf2_arith.md R106: the table-free form of the byte-wise update, and its meaning. -/
def Obligations.ByteUpdateIsEightReductions : Prop :=
  ∀ (c : Word) (b : Byte),
    byteUpdate Rom.std c b = reduceN 8 (c ^^^ Word.zext b) ∧
    IsResidue (byteUpdate Rom.std c b)
      (poly c * Polynomial.X ^ 8 + bytePoly b * Polynomial.X ^ 32)

/-! ### Tables -/

/-- 41_tables.md R132, R135: for any seed the builder assigns the seed itself to index 128 and one
more reduction step to each lower power of two, every table is linear in its index, and entry 0 is
0. -/
def Obligations.BuiltTablesAreSeededAndLinear : Prop :=
  ∀ u : Word,
    (∀ k : Nat, k < 8 →
      tableEntry (buildTable u) (BitVec.ofNat 8 (2 ^ k)) = reduceN (7 - k) u) ∧
    (∀ i j : Byte, tableEntry (buildTable u) (i ^^^ j) =
      tableEntry (buildTable u) i ^^^ tableEntry (buildTable u) j) ∧
    tableEntry (buildTable u) 0#8 = 0#32

/-- 41_tables.md R133, R134: the ROM is the table built from G, and its closed form. -/
def Obligations.StandardRomIsByteCrc : Prop :=
  Rom.std = buildTable gen ∧
  ∀ i : Byte,
    tableEntry Rom.std i = reduceN 8 (Word.zext i) ∧
    IsResidue (tableEntry Rom.std i) (bytePoly i * Polynomial.X ^ 32)

/-- 41_tables.md R138: the closed form of PREFIX, and the contribution it stands for. -/
def Obligations.PrefixTableIsDepartingContribution : Prop :=
  ∀ (w : Nat) (b : Byte),
    tableEntry (buildTable (prefixSeed (xpow (8 * w)))) b =
      gf2mul (tableEntry Rom.std b) (xpow (8 * w)) ∧
    IsResidue (tableEntry (buildTable (prefixSeed (xpow (8 * w)))) b)
      (bytePoly b * Polynomial.X ^ (8 * w + 32)) ∧
    ∀ m : List Byte, m.length = w →
      crc0 (b :: m) = tableEntry (buildTable (prefixSeed (xpow (8 * w)))) b ^^^ crc0 m

/-! ### What the engine computes -/

/-- 42_engine.md R169: `crc0` is M(x)·x^32 mod P, it is 0 of the empty sequence, and it is linear.
-/
def Obligations.UncomplementedCrcIsRemainder : Prop :=
  (∀ m : List Byte, IsResidue (crc0 m) (messagePoly m * Polynomial.X ^ 32)) ∧
  crc0 [] = 0#32 ∧
  (∀ (m : List Byte) (b : Byte), crc0 (m ++ [b]) = byteUpdate Rom.std (crc0 m) b) ∧
  (∀ m n : List Byte, m.length = n.length →
    crc0 (List.zipWith (· ^^^ ·) m n) = crc0 m ^^^ crc0 n)

/-- 42_engine.md R170: CRC-32 from the un-complemented CRC. -/
def Obligations.Crc32FromUncomplementedCrc : Prop :=
  ∀ m : List Byte,
    crc32 m = m.foldl (byteUpdate Rom.std) 0xFFFFFFFF#32 ^^^ 0xFFFFFFFF#32 ∧
    crc32 m = crc0 m ^^^ gf2mul 0xFFFFFFFF#32 (xpow (8 * m.length)) ^^^ 0xFFFFFFFF#32

/-- 42_engine.md R161: the correction constant, the contribution it folds in, and its value as the
CRC-32 of W zero bytes. -/
def Obligations.CorrectionIsCrc32OfZeroBytes : Prop :=
  ∀ w : Nat,
    correction (xpow (8 * w)) = gf2mul 0xFFFFFFFF#32 (xpow (8 * w)) ^^^ 0xFFFFFFFF#32 ∧
    gf2mul 0xFFFFFFFF#32 (xpow (8 * w)) = reduceN (8 * w) 0xFFFFFFFF#32 ∧
    correction (xpow (8 * w)) = crc32 (List.replicate w 0#8)

/-! ### Encoding -/

/-- The model's decoder and encoder agree on every well-formed command, at every operand. -/
def Obligations.DecodeOfEncodeIsTheCommand : Prop :=
  ∀ i : Instr, i.wellFormed = true → decode (encode i) = .ok i

/-- A word that decodes is the encoding of what it decodes to, and that is well-formed: no command
has a second word. -/
def Obligations.EncodeOfDecodeIsTheWord : Prop :=
  ∀ (v : Word) (i : Instr), decode v = .ok i → i.wellFormed = true ∧ encode i = v

/-- 30_encoding.md R86: a word decodes exactly when it selects a row of the opcode map, it then
selects the row of its command, and at most one row matches any word. -/
def Obligations.DecodeFollowsTheOpcodeMap : Prop :=
  (∀ v : Word, opcodeRows.countP (selectsRow v) ≤ 1) ∧
  (∀ v : Word, (∃ i, decode v = .ok i) ↔ ∃ row ∈ opcodeRows, selectsRow v row = true) ∧
  (∀ (v : Word) (i : Instr), decode v = .ok i →
    opcodeRow i ∈ opcodeRows ∧ selectsRow v (opcodeRow i) = true)

/-- A few words of 95_test_vectors.md and what they stand for. -/
def Obligations.SampleWordsDecode : Prop :=
  decode 0x00000000#32 = .ok .nop ∧ decode 0x01FFFFFF#32 = .ok (.config 16777215) ∧
  decode 0x02000031#32 = .ok (.fill 0x31#8) ∧ decode 0x03000061#32 = .ok (.step 0x61#8) ∧
  decode 0x04000000#32 = .ok .restart ∧ decode 0x05000000#32 = .ok .clrerr ∧
  decode 0x06000000#32 = .ok .mul ∧ decode 0x070000FF#32 = .ok (.red 255) ∧
  decode 0x08000080#32 = .ok (.tblrd .std 0x80#8) ∧
  decode 0x08000131#32 = .ok (.tblrd .prefixTable 0x31#8) ∧
  decode 0x02000141#32 = .error .reservedBits ∧ decode 0x09000000#32 = .error .reservedOpcode

/-- 30_encoding.md R87, R88: a reserved opcode and a one in a reserved bit both raise E_ILLEGAL, in
every phase, with no other effect. -/
def Obligations.IllegalWordsRaiseIllegal : Prop :=
  (∀ (v : Word) (s : State) (rest : List HostMove),
    0x09 ≤ (v >>> 24).toNat → s.pending = commandMove v :: rest →
    step s = .next ((s.withPending rest).recordError .illegal)) ∧
  (∀ (v : Word) (s : State) (rest : List HostMove),
    ((v >>> 24).toNat ∈ [0x00, 0x04, 0x05, 0x06] ∧ v &&& 0x00FFFFFF#32 ≠ 0#32 ∨
      (v >>> 24).toNat ∈ [0x02, 0x03, 0x07] ∧ v &&& 0x00FFFF00#32 ≠ 0#32 ∨
      (v >>> 24).toNat = 0x08 ∧ v &&& 0x00FFFE00#32 ≠ 0#32) →
    s.pending = commandMove v :: rest →
    step s = .next ((s.withPending rest).recordError .illegal)) ∧
  (∀ v : Word, decode v = .ok .nop → v = 0x00000000#32)

/-! ### The step -/

/-- When the host's oldest move writes a word to CMD that decodes to a command, the step is that
command's meaning on the state from which the move has been taken; a word that decodes to none
records E_ILLEGAL; with no move pending the block holds its state. -/
def Obligations.StepRunsTheDecodedCommand : Prop :=
  (∀ (s : State) (v : Word) (rest : List HostMove) (i : Instr),
    s.pending = commandMove v :: rest → decode v = .ok i →
    step s = exec i (s.withPending rest)) ∧
  (∀ (s : State) (v : Word) (rest : List HostMove) (e : DecodeError),
    s.pending = commandMove v :: rest → decode v = .error e →
    step s = .next ((s.withPending rest).recordError .illegal)) ∧
  (∀ s : State, s.pending = [] → step s = .next s) ∧
  (∀ (s : State) (w : Nat) (i : Instr), w < 2 ^ 32 → decodeTableWord 32 w = some i →
    step (s.withFetchWord 32 w) = exec i s)

/-- 20_memory.md R67: the state after a sequence of accesses is the sequential composition of the
accesses; moves not yet sent cannot be seen. -/
def Obligations.RunsComposeInIssueOrder : Prop :=
  (∀ (m : HostMove) (s : State), runMoves [m] s = serve m (s.withPending [])) ∧
  (∀ (ms ns : List HostMove) (s t : State), runMoves ms s = .next t →
    t.pending = [] ∧ runMoves (ms ++ ns) s = runMoves ns t)

/-- 20_memory.md R52, R56: every aligned 32-bit read returns the register of its offset, 0 at a
reserved one, and changes nothing of the block. -/
def Obligations.HostReadReturnsTheRegister : Prop :=
  ∀ (s : State) (off : BitVec 8) (rest : List HostMove),
    s.pending = .read 32 off :: rest → off.toNat % 4 = 0 →
    step s = .next { s with
      pending := rest
      reads := s.reads ++ [((registerMap s).lookup off.toNat).getD 0#32] }

/-- 20_memory.md R53: an aligned 32-bit write runs a command at CMD, stores OPA or OPB, and has no
effect anywhere else. -/
def Obligations.HostWriteReachesOnlyCmdOpaOpb : Prop :=
  ∀ (s : State) (off : BitVec 8) (v : Word) (rest : List HostMove),
    s.pending = .write 32 off v :: rest → off.toNat % 4 = 0 →
    (off = 0x00#8 → step s = executeCommand v (s.withPending rest)) ∧
    (off = 0x24#8 → step s = .next { s with pending := rest, opa := v }) ∧
    (off = 0x28#8 → step s = .next { s with pending := rest, opb := v }) ∧
    (off ≠ 0x00#8 → off ≠ 0x24#8 → off ≠ 0x28#8 → step s = .next { s with pending := rest })

/-- 20_memory.md R54, R55: an access of another width than 32 bits, or at an offset that is no
multiple of 4, has no step; every other move of the host is not refused. -/
def Obligations.OddAccessesHaveNoStep : Prop :=
  (∀ (s : State) (width : Nat) (off : BitVec 8) (v : Word) (rest : List HostMove),
    (s.pending = .read width off :: rest ∨ s.pending = .write width off v :: rest) →
    (width ≠ 32 ∨ off.toNat % 4 ≠ 0) → ∃ r, step s = .refused r) ∧
  (∀ (s : State) (r : Refusal), step s = .refused r →
    ∃ (width : Nat) (off : BitVec 8) (rest : List HostMove),
      (s.pending = .read width off :: rest ∨ ∃ v, s.pending = .write width off v :: rest) ∧
      (width ≠ 32 ∨ off.toNat % 4 ≠ 0))

/-! ### Errors -/

/-- 43_control.md R206: the legality of every command in every phase. A command the table gives an
error changes nothing but the error record; an "ok" command completes and leaves the error record
as it was, but for CLRERR; a malformed word raises E_ILLEGAL in every phase. That slot POS exists is
assumed where a command completes (log entry 7). -/
def Obligations.LegalityFollowsThePhaseTable : Prop :=
  ∀ (i : Instr) (s : State),
    (phaseTable s.cfg.wmax i s.phase ≠ .none →
      exec i s = .next (s.recordError (phaseTable s.cfg.wmax i s.phase))) ∧
    (phaseTable s.cfg.wmax i s.phase = .none → s.pos.toNat < s.cfg.wmax.toNat →
      ∃ t, exec i s = .next t ∧ (i ≠ .clrerr → t.err = s.err ∧ t.errcode = s.errcode)) ∧
    (∀ (v : Word) (e : DecodeError), decode v = .error e →
      executeCommand v s = .next (s.recordError .illegal))

/-- 60_exceptions.md R228: raising an error records the first code only; only CLRERR and reset
clear the record. -/
def Obligations.FirstErrorIsKeptUntilCleared : Prop :=
  (∀ (c : ErrCode) (s : State),
    (s.err = false → raise c s = .next { s with err := true, errcode := c }) ∧
    (s.err = true → raise c s = .next s)) ∧
  (∀ s t : State, s.err = true → step s = .next t →
    t.err = true ∧ t.errcode = s.errcode ∨
    ∃ rest, s.pending = commandMove 0x05000000#32 :: rest ∨ s.pending = .reset :: rest)

/-- 60_exceptions.md R229: a standing error changes no command: what a command other than CLRERR
does with the record clear or set, it does with any record set, and the record stays; a failed command then
changes nothing. -/
def Obligations.CommandsRunAlikeWhileErrIsSet : Prop :=
  ∀ (i : Instr) (s t : State) (c : ErrCode), i ≠ .clrerr → exec i s = .next t →
    exec i { s with err := true, errcode := c } = .next { t with err := true, errcode := c } ∧
    (s.err = true → phaseTable s.cfg.wmax i s.phase ≠ .none → t = s)

/-- 10_state.md R22, 60_exceptions.md R221: the fields of the STATUS word, the code of each error,
and, in every state the block can be in, that ERR is 0 exactly when ERRCODE is. -/
def Obligations.StatusFieldsAreLaidOut : Prop :=
  ∀ s : State,
    ((hostRead 0x04#8 s).extractLsb' 0 2).toNat =
      (match s.phase with | .unconfigured => 0 | .fill => 1 | .run => 2) ∧
    (hostRead 0x04#8 s).getLsbD 2 = s.err ∧
    (hostRead 0x04#8 s).getLsbD 3 = false ∧
    ((hostRead 0x04#8 s).extractLsb' 4 4).toNat =
      (match s.errcode with
        | .none => 0 | .illegal => 1 | .badW => 2 | .notConfigured => 3 | .phase => 4) ∧
    (hostRead 0x04#8 s).extractLsb' 8 24 = 0#24 ∧
    (s.Inv → ((hostRead 0x04#8 s).getLsbD 2 = false ↔
      (hostRead 0x04#8 s).extractLsb' 4 4 = 0#4))

/-! ### Commands: what each does, and that it completes -/

/-- 43_control.md R200, R203: NOP changes nothing; CLRERR clears ERR and ERRCODE and nothing else.
Both complete in every state. -/
def Obligations.NopAndClrerrComplete : Prop :=
  ∀ s : State,
    exec .nop s = .next s ∧
    exec .clrerr s = .next { s with err := false, errcode := .none } ∧
    (s.err = false → s.errcode = .none → exec .clrerr s = .next s) ∧
    executeCommand 0x00000000#32 s = exec .nop s ∧ executeCommand 0x05000000#32 s = exec .clrerr s ∧
    (∀ v, HasReservedOne 0x00#8 0x00FFFFFF#32 v ∨ HasReservedOne 0x05#8 0x00FFFFFF#32 v →
      executeCommand v s = .next (s.recordError .illegal))

/-- 40_gf2_arith.md R111: MUL puts the product of OPA and OPB into AUXRES and changes nothing
else, in every state. The value is the polynomial product modulo P. -/
def Obligations.MulWritesTheProduct : Prop :=
  ∀ s : State,
    exec .mul s = .next { s with auxres := gf2mul s.opa s.opb } ∧
    IsResidue (gf2mul s.opa s.opb) (poly s.opa * poly s.opb) ∧
    (s.opa = 0#32 ∨ s.opb = 0#32 → exec .mul s = .next { s with auxres := 0#32 }) ∧
    (s.opa = 0x80000000#32 → exec .mul s = .next { s with auxres := s.opb }) ∧
    gf2mul 0xFFFFFFFF#32 0x00800000#32 = 0x2DFD1072#32 ∧
    executeCommand 0x06000000#32 s = exec .mul s ∧
    (∀ v, HasReservedOne 0x06#8 0x00FFFFFF#32 v →
      executeCommand v s = .next (s.recordError .illegal))

/-- 40_gf2_arith.md R112: RED k puts OPA·x^k mod P into AUXRES and changes nothing else, in every
state. -/
def Obligations.RedWritesThePowerMultiple : Prop :=
  ∀ (k : Nat) (s : State),
    exec (.red k) s = .next { s with auxres := reduceN k s.opa } ∧
    IsResidue (reduceN k s.opa) (poly s.opa * Polynomial.X ^ k) ∧
    (k = 0 → exec (.red k) s = .next { s with auxres := s.opa }) ∧
    (s.opa = 0#32 → exec (.red k) s = .next { s with auxres := 0#32 }) ∧
    reduceN 1 0x00000001#32 = 0xEDB88320#32 ∧ reduceN 32 0x80000000#32 = 0xEDB88320#32 ∧
    (k < 256 → executeCommand (0x07000000#32 ||| BitVec.ofNat 32 k) s = exec (.red k) s) ∧
    (∀ v, HasReservedOne 0x07#8 0x00FFFF00#32 v →
      executeCommand v s = .next (s.recordError .illegal))

/-- 41_tables.md R140: TBLRD copies one table entry into AUXRES and changes nothing else; PREFIX is
refused with E_NOT_CONFIGURED in phase UNCONFIGURED. In the other phases, in every state the block
can be in, SEL = 1 reads the table of the current W. Entry 0 is 0 in every such state. -/
def Obligations.TblrdWritesTheEntry : Prop :=
  ∀ (idx : Byte) (s : State),
    exec (.tblrd .std idx) s = .next { s with auxres := tableEntry s.std idx } ∧
    (s.phase = .unconfigured →
      exec (.tblrd .prefixTable idx) s = .next (s.recordError .notConfigured)) ∧
    (s.phase ≠ .unconfigured →
      exec (.tblrd .prefixTable idx) s = .next { s with auxres := s.prefixEntry idx }) ∧
    (∀ t : Table, s.prefixTable = some t → s.prefixEntry idx = tableEntry t idx) ∧
    (s.Inv → s.phase ≠ .unconfigured →
      exec (.tblrd .prefixTable idx) s = .next { s with
        auxres := tableEntry (buildTable (prefixSeed (xpow (8 * s.wsize.toNat)))) idx }) ∧
    (s.Inv → exec (.tblrd .std 0#8) s = .next { s with auxres := 0#32 } ∧
      (s.phase ≠ .unconfigured →
        exec (.tblrd .prefixTable 0#8) s = .next { s with auxres := 0#32 })) ∧
    tableEntry Rom.std 0x80#8 = 0xEDB88320#32 ∧
    executeCommand (0x08000000#32 ||| Word.zext idx) s = exec (.tblrd .std idx) s ∧
    executeCommand (0x08000100#32 ||| Word.zext idx) s = exec (.tblrd .prefixTable idx) s ∧
    (∀ v, HasReservedOne 0x08#8 0x00FFFE00#32 v →
      executeCommand v s = .next (s.recordError .illegal))

/-- 42_engine.md R160: CONFIG with 1 ≤ W ≤ WMAX writes exactly WSIZE, XPOW, CRCXOR, PREFIX, ACC,
POS and PHASE, in every phase; any other W raises E_BAD_W. -/
def Obligations.ConfigLoadsTheConstants : Prop :=
  ∀ (w : Nat) (s : State),
    (1 ≤ w → w ≤ s.cfg.wmax.toNat →
      exec (.config w) s = .next { s with
        wsize := BitVec.ofNat 24 w
        xpow := xpow (8 * w)
        crcxor := gf2mul 0xFFFFFFFF#32 (xpow (8 * w)) ^^^ 0xFFFFFFFF#32
        prefixTable := some (buildTable (gf2mul 0xEDB88320#32 (xpow (8 * w))))
        acc := 0#32
        pos := 0#24
        phase := .fill } ∧
      (BitVec.ofNat 24 w).toNat = w) ∧
    (w = 0 ∨ s.cfg.wmax.toNat < w → exec (.config w) s = .next (s.recordError .badW)) ∧
    xpow (8 * 1) = 0x00800000#32 ∧
    (w < 2 ^ 24 → executeCommand (0x01000000#32 ||| BitVec.ofNat 32 w) s = exec (.config w) s)

/-- 42_engine.md R162: FILL in phase FILL stores its byte in slot POS, updates ACC by the byte-wise
update, advances POS and enters RUN on the W-th byte; every other slot and register is unchanged.
In the other phases it raises its error. Slot POS is assumed to exist (log entry 7), and W not to be
0 where POS is given its value (log entry 15). -/
def Obligations.FillAppendsTheByte : Prop :=
  ∀ (b : Byte) (s : State),
    (s.phase = .fill → s.pos.toNat < s.cfg.wmax.toNat →
      ∃ t, exec (.fill b) s = .next t ∧
        t.win.read s.pos.toNat = some b ∧
        (∀ a : Nat, a ≠ s.pos.toNat → t.win.read a = s.win.read a) ∧
        (s.wsize ≠ 0#24 → t.pos = BitVec.ofNat 24 ((s.pos.toNat + 1) % s.wsize.toNat)) ∧
        t = { s with
          win := t.win
          acc := byteUpdate s.std s.acc b
          phase := if s.pos.toNat + 1 = s.wsize.toNat then .run else .fill
          pos := t.pos }) ∧
    (s.phase = .unconfigured → exec (.fill b) s = .next (s.recordError .notConfigured)) ∧
    (s.phase = .run → exec (.fill b) s = .next (s.recordError .phase)) ∧
    executeCommand (0x02000000#32 ||| Word.zext b) s = exec (.fill b) s ∧
    (∀ v, HasReservedOne 0x02#8 0x00FFFF00#32 v →
      executeCommand v s = .next (s.recordError .illegal))

/-- 42_engine.md R166: STEP in phase RUN latches the checksum into LAST_OUT, updates ACC with the
arriving and the departing byte, stores the arriving byte in slot POS and advances POS; every other
slot and register is unchanged. In the other phases it raises its error. Slot POS is assumed to
exist (log entry 7), and W not to be 0 where POS is given its value (log entry 15). -/
def Obligations.StepSlidesTheWindow : Prop :=
  ∀ (b : Byte) (s : State),
    (s.phase = .run → s.pos.toNat < s.cfg.wmax.toNat →
      ∃ t, exec (.step b) s = .next t ∧
        t.win.read s.pos.toNat = some b ∧
        (∀ a : Nat, a ≠ s.pos.toNat → t.win.read a = s.win.read a) ∧
        (s.wsize ≠ 0#24 → t.pos = BitVec.ofNat 24 ((s.pos.toNat + 1) % s.wsize.toNat)) ∧
        t = { s with
          win := t.win
          acc := tableEntry s.std ((Word.zext b ^^^ s.acc).extractLsb' 0 8) ^^^ (s.acc >>> 8) ^^^
            s.prefixEntry (s.winByte s.pos.toNat)
          lastOut := s.acc ^^^ s.crcxor
          pos := t.pos }) ∧
    (s.phase = .unconfigured → exec (.step b) s = .next (s.recordError .notConfigured)) ∧
    (s.phase = .fill → exec (.step b) s = .next (s.recordError .phase)) ∧
    (∀ (a : Nat) (old : Byte), s.win.read a = some old → s.winByte a = old) ∧
    (∀ (t : Table) (i : Byte), s.prefixTable = some t → s.prefixEntry i = tableEntry t i) ∧
    executeCommand (0x03000000#32 ||| Word.zext b) s = exec (.step b) s ∧
    (∀ v, HasReservedOne 0x03#8 0x00FFFF00#32 v →
      executeCommand v s = .next (s.recordError .illegal))

/-- 42_engine.md R168: RESTART writes exactly ACC, POS and PHASE in phases FILL and RUN, and raises
E_NOT_CONFIGURED otherwise; it gives the same state as CONFIG with the current W. -/
def Obligations.RestartStartsANewStream : Prop :=
  ∀ s : State,
    (s.phase ≠ .unconfigured →
      exec .restart s = .next { s with acc := 0#32, pos := 0#24, phase := .fill }) ∧
    (s.phase = .unconfigured → exec .restart s = .next (s.recordError .notConfigured)) ∧
    (s.Inv → s.phase ≠ .unconfigured →
      exec .restart s = exec (.config s.wsize.toNat) s) ∧
    executeCommand 0x04000000#32 s = exec .restart s ∧
    (∀ v, HasReservedOne 0x04#8 0x00FFFFFF#32 v →
      executeCommand v s = .next (s.recordError .illegal))

/-- 41_tables.md R139: a repeated CONFIG with the same W leaves the same state; the table depends on
the seed alone. -/
def Obligations.RepeatedConfigIsIdempotent : Prop :=
  ∀ (w : Nat) (s t : State), 1 ≤ w → w ≤ s.cfg.wmax.toNat → exec (.config w) s = .next t →
    exec (.config w) t = .next t

/-- When a command faults: FILL in phase FILL and STEP in phase RUN at a slot at or above WMAX, and
no other command in no other state. The fault is the model's choice (log entry 7). -/
def Obligations.CommandsFaultOnlyAtAbsentSlots : Prop :=
  ∀ (i : Instr) (s : State) (f : Fault), exec i s = .fault f ↔
    f = .windowSlotAbsent ∧ s.cfg.wmax.toNat ≤ s.pos.toNat ∧
    (s.phase = .fill ∧ (∃ b, i = .fill b) ∨ s.phase = .run ∧ ∃ b, i = .step b)

/-! ### Which command writes what -/

/-- 42_engine.md R165: FILL and STEP write exactly slot POS of WIN; no other command touches WIN.
The one slot is read and written at POS as it was before the command. -/
def Obligations.OnlyFillAndStepWriteTheWindow : Prop :=
  ∀ (i : Instr) (s t : State), exec i s = .next t →
    (¬ WritesWindow i → t.win = s.win) ∧
    (∀ a : Nat, a ≠ s.pos.toNat → t.win.read a = s.win.read a) ∧
    (∀ b, i = .fill b → s.phase = .fill → t.win.read s.pos.toNat = some b) ∧
    (∀ b, i = .step b → s.phase = .run → t.win.read s.pos.toNat = some b ∧
      t.acc = s.slideAcc b (s.winByte s.pos.toNat))

/-- The writers of each register, over all commands: WSIZE, XPOW, CRCXOR and PREFIX by CONFIG only
(10_state.md R23, R29, R30, R39); LAST_OUT by STEP only (R28); AUXRES by MUL, RED and TBLRD only
(R32); OPA and OPB by no command (R31); STD, the parameters, the pending moves and the values read
by no command. -/
def Obligations.EachRegisterHasItsWriters : Prop :=
  ∀ (i : Instr) (s t : State), exec i s = .next t →
    ((∀ w, i ≠ .config w) → t.wsize = s.wsize ∧ t.xpow = s.xpow ∧ t.crcxor = s.crcxor ∧
      t.prefixTable = s.prefixTable) ∧
    ((∀ b, i ≠ .step b) → t.lastOut = s.lastOut) ∧
    (i ≠ .mul → (∀ k, i ≠ .red k) → (∀ sel idx, i ≠ .tblrd sel idx) → t.auxres = s.auxres) ∧
    ((∀ w, i ≠ .config w) → (∀ b, i ≠ .fill b) → (∀ b, i ≠ .step b) → i ≠ .restart →
      t.acc = s.acc ∧ t.pos = s.pos ∧ t.phase = s.phase) ∧
    t.opa = s.opa ∧ t.opb = s.opb ∧ t.std = s.std ∧ t.cfg = s.cfg ∧ t.epoch = s.epoch ∧
    t.pending = s.pending ∧ t.reads = s.reads

/-- 42_engine.md R164: `next_pos(p) = (p + 1) mod WSIZE`, by which FILL and STEP advance POS; it
runs through 0, 1, …, W−1 and wraps to 0. -/
def Obligations.PositionCyclesThroughTheWindow : Prop :=
  (∀ wsize p : Size, p.toNat < wsize.toNat →
    (nextPos wsize p).toNat = if p.toNat + 1 = wsize.toNat then 0 else p.toNat + 1) ∧
  (∀ (b : Byte) (s t : State), s.phase = .fill → exec (.fill b) s = .next t →
    t.pos = nextPos s.wsize s.pos) ∧
  (∀ (b : Byte) (s t : State), s.phase = .run → exec (.step b) s = .next t →
    t.pos = nextPos s.wsize s.pos)

/-! ### Reset and the phases -/

/-- The reset values of 10_state.md section 4, at power-on with any parameters and at every reset move
from any state: every register reads 0 but GEN and CAPS, and the ROM is not affected. The rest is the
model's choice: WIN and PREFIX, which the spec leaves unspecified, are the free values `winPowerUp`
and `prefixPowerUp` of `epoch` (log entries 4 to 6), and reset is one move that completes and keeps
the host's pending moves and the values read (log entry 8, DEDUCED). -/
def Obligations.ResetLeavesTheResetValues : Prop :=
  (∀ t : State, ((∃ c, t = State.powerOn c) ∨ ∃ s rest, s.pending = .reset :: rest ∧
      step s = .next t) →
    t.phase = .unconfigured ∧ t.err = false ∧ t.errcode = .none ∧ t.wsize = 0#24 ∧ t.pos = 0#24 ∧
    t.acc = 0#32 ∧ t.lastOut = 0#32 ∧ t.xpow = 0#32 ∧ t.crcxor = 0#32 ∧ t.opa = 0#32 ∧
    t.opb = 0#32 ∧ t.auxres = 0#32 ∧
    (∀ i : Nat, t.winByte i = Config.winPowerUp t.epoch i) ∧
    (∀ i : Byte, t.prefixEntry i = tableEntry (Config.prefixPowerUp t.epoch) i) ∧
    (∀ off : BitVec 8, off.toNat % 4 = 0 → hostRead off t =
      if off = 0x30#8 then 0xEDB88320#32
      else if off = 0x34#8 then BitVec.ofNat 32 t.cfg.wmax.toNat else 0#32)) ∧
  (∀ (s : State) (rest : List HostMove), s.pending = .reset :: rest →
    ∃ t, step s = .next t ∧ t.std = s.std ∧ t.cfg = s.cfg ∧ t.pending = rest ∧
      t.reads = s.reads) ∧
  (∀ c : Config, (State.powerOn c).std = Rom.std)

/-- Whole-machine rules of the phases, from any state: reset is the only way back to UNCONFIGURED
(70_reset_and_hazards.md, section 1), and RUN is entered from FILL only, by a FILL command that
loads the last byte of the first window (42_engine.md, section 3). -/
def Obligations.PhasesChangeOnlyAsTheSpecSays : Prop :=
  ∀ s t : State, step s = .next t →
    (s.phase ≠ .unconfigured → t.phase = .unconfigured → ∃ rest, s.pending = .reset :: rest) ∧
    (s.phase ≠ .run → t.phase = .run → s.phase = .fill ∧ s.pos.toNat + 1 = s.wsize.toNat ∧
      ∃ v b rest, s.pending = .write 32 0x00#8 v :: rest ∧ decode v = .ok (.fill b))

/-- 70_reset_and_hazards.md R262: neither reset nor any command changes the ROM, so in every state
that a run from a reset state reaches it holds the contents of 41_tables.md R136. -/
def Obligations.RomNeverChanges : Prop :=
  (∀ s t : State, step s = .next t → t.std = s.std) ∧
  (∀ (c : Config) (ms : List HostMove) (t : State), runMoves ms (State.powerOn c) = .next t →
    t.std = Rom.std)

/-! ### The invariant and the headline results -/

/-- The invariant holds after power-on with any legal WMAX, the model's reset state among them. -/
def Obligations.InvariantHoldsAtReset : Prop :=
  (∀ c : Config, c.wf = true → (State.powerOn c).Inv) ∧ State.reset.Inv

/-- Every step from a state that meets the invariant leaves a state that meets it: a legal phase
with its W and POS in range, the constants and PREFIX of the current W, the canonical window
memory, the ROM, ERR = 0 exactly with ERRCODE = 0, and the accumulator the un-complemented CRC of
the bytes loaded (FILL) or of the window in time order (RUN) (42_engine.md R171, R172). -/
def Obligations.StepKeepsTheInvariant : Prop :=
  ∀ s t : State, s.Inv → step s = .next t → t.Inv

/-- From a state that meets the invariant no step faults, and every step but a refused access
answers a next state (10_state.md R41: an unwritten or absent slot is never read). -/
def Obligations.InvariantStatesNeverFault : Prop :=
  ∀ s : State, s.Inv → s.StepSafe ∧
    ((∃ t, step s = .next t) ∨
      ∃ (width : Nat) (off : BitVec 8) (rest : List HostMove),
        (s.pending = .read width off :: rest ∨ ∃ v, s.pending = .write width off v :: rest) ∧
        (width ≠ 32 ∨ off.toNat % 4 ≠ 0))

/-- 42_engine.md R175: in phase RUN the observed checksum is the CRC-32 of the window in time order,
as the host reads it. -/
def Obligations.ObservedChecksumIsCrc32OfTheWindow : Prop :=
  ∀ s : State, s.Inv → s.phase = .run →
    s.acc ^^^ s.crcxor = crc32 s.window ∧ hostRead 0x14#8 s = crc32 s.window ∧
    s.window.length = s.wsize.toNat

/-- 42_engine.md R176: after a successful STEP, LAST_OUT is the CRC-32 of the window as it was
before, the value CRC_OUT held; the window has lost its oldest byte and gained the new one, and
CRC_OUT is its CRC-32. -/
def Obligations.StepReportsTheOldWindowAndSlides : Prop :=
  ∀ (b : Byte) (s : State), s.Inv → s.phase = .run →
    ∃ t, exec (.step b) s = .next t ∧ t.lastOut = crc32 s.window ∧ t.lastOut = s.crcOut ∧
      t.window = s.window.tail ++ [b] ∧ t.crcOut = crc32 (s.window.tail ++ [b])

/-- 42_engine.md R163: W FILLs after a CONFIG or a RESTART load the first window and enter RUN; the
first STEP then removes the oldest byte. -/
def Obligations.FillsInitializeTheWindow : Prop :=
  ∀ (s : State) (m : List Byte), s.Inv →
    (∀ w, m.length = w → 1 ≤ w → w ≤ s.cfg.wmax.toNat →
      ∃ t, runCommands (.config w :: m.map .fill) s = .next t ∧ Loaded t m ∧
        ∀ b, ∃ u, exec (.step b) t = .next u ∧ u.window = m.tail ++ [b]) ∧
    (s.phase ≠ .unconfigured → m.length = s.wsize.toNat →
      ∃ t, runCommands (.restart :: m.map .fill) s = .next t ∧ Loaded t m ∧
        ∀ b, ∃ u, exec (.step b) t = .next u ∧ u.window = m.tail ++ [b])

/-- 42_engine.md R177, R178: the host's driver, started in any state the block can be in, on any
stream of n ≥ W bytes, reads exactly the n−W+1 CRC-32 values of the stream's windows, in stream
order. -/
def Obligations.DriverReadsOneChecksumPerWindow : Prop :=
  ∀ (s : State) (w : Nat) (stream : List Byte), s.Inv → 1 ≤ w → w ≤ s.cfg.wmax.toNat →
    w ≤ stream.length →
    ∃ t, runMoves (driverMoves w stream) s = .next t ∧
      t.reads = s.reads ++ (windowsOf w stream).map crc32 ∧ t.phase = .run ∧
      t.window = stream.drop (stream.length - w) ∧ t.crcOut = crc32 t.window

/-- 42_engine.md R177: with fewer than W bytes the block never leaves FILL. -/
def Obligations.ShortStreamStaysInFill : Prop :=
  ∀ (s : State) (w : Nat) (stream : List Byte), s.Inv → 1 ≤ w → w ≤ s.cfg.wmax.toNat →
    stream.length < w →
    ∃ t, runCommands (.config w :: stream.map .fill) s = .next t ∧ t.phase = .fill ∧
      t.pos.toNat = stream.length ∧ t.acc = crc0 stream

/-- 70_reset_and_hazards.md R264: bytes of the old stream never reach a checksum of the new one. Two
blocks, whatever they have seen before, agree on the accumulator, the window and the checksum after
a new stream of W bytes or more, whichever way it starts: with RESTART, where both have the same W,
or with CONFIG, whatever their phases and their old W. -/
def Obligations.OldStreamNeverReachesTheNewChecksum : Prop :=
  ∀ (s1 s2 : State) (m ms : List Byte), s1.Inv → s2.Inv →
    (s1.phase ≠ .unconfigured → s2.phase ≠ .unconfigured → s1.wsize = s2.wsize →
      m.length = s1.wsize.toNat → AgreeOnNewStream .restart m ms s1 s2) ∧
    (∀ w : Nat, 1 ≤ w → w ≤ s1.cfg.wmax.toNat → w ≤ s2.cfg.wmax.toNat → m.length = w →
      AgreeOnNewStream (.config w) m ms s1 s2)

/-- 10_state.md R41: the unspecified contents of WIN and PREFIX never reach a register. Changing
which free values they are (they are chosen by `epoch`), in a state the block can be in, changes
nothing else of any next state. -/
def Obligations.UnspecifiedContentsAreNeverObserved : Prop :=
  ∀ (s t : State) (e : Nat), s.Inv → step s = .next t →
    ∃ e', step { s with epoch := e } = .next { t with epoch := e' }

/-! ### The assembler and the byte lanes -/

/-- 30_encoding.md R91, R92: what each statement of the assembler sends, and that an operand out of
its range sends nothing. -/
def Obligations.AssemblerEmitsTheListedWords : Prop :=
  assemble .nop = some [commandMove 0x00000000#32] ∧
  assemble .restart = some [commandMove 0x04000000#32] ∧
  assemble .clrerr = some [commandMove 0x05000000#32] ∧
  assemble .mul = some [commandMove 0x06000000#32] ∧
  (∀ w : Nat, assemble (.config w) =
    if w ≤ 0xFFFFFF then some [commandMove (0x01000000#32 ||| BitVec.ofNat 32 w)] else none) ∧
  (∀ b : Nat, assemble (.fill b) =
    if b ≤ 0xFF then some [commandMove (0x02000000#32 ||| BitVec.ofNat 32 b)] else none) ∧
  (∀ b : Nat, assemble (.step b) =
    if b ≤ 0xFF then some [commandMove (0x03000000#32 ||| BitVec.ofNat 32 b)] else none) ∧
  (∀ k : Nat, assemble (.red k) =
    if k ≤ 0xFF then some [commandMove (0x07000000#32 ||| BitVec.ofNat 32 k)] else none) ∧
  (∀ i : Nat, assemble (.tblrd .std i) =
    if i ≤ 0xFF then some [commandMove (0x08000000#32 ||| BitVec.ofNat 32 i)] else none) ∧
  (∀ i : Nat, assemble (.tblrd .prefixTable i) =
    if i ≤ 0xFF then some [commandMove (0x08000100#32 ||| BitVec.ofNat 32 i)] else none) ∧
  (∀ bs : List Nat, (∀ b ∈ bs, b ≤ 0xFF) →
    assemble (.fills bs) = some (bs.map fun b => issue (.fill (BitVec.ofNat 8 b))) ∧
    assemble (.steps bs) = some (bs.map fun b => issue (.step (BitVec.ofNat 8 b)))) ∧
  (∀ bs : List Nat, (∃ b ∈ bs, 0xFF < b) →
    assemble (.fills bs) = none ∧ assemble (.steps bs) = none) ∧
  (∀ v : Nat, assemble (.word v) =
    if v < 2 ^ 32 then some [commandMove (BitVec.ofNat 32 v)] else none) ∧
  (∀ off v : Nat, assemble (.wr off v) =
    if off ≤ 0xFF ∧ v < 2 ^ 32 then some [.write 32 (BitVec.ofNat 8 off) (BitVec.ofNat 32 v)]
    else none) ∧
  (∀ off : Nat, assemble (.rd off) =
    if off ≤ 0xFF then some [.read 32 (BitVec.ofNat 8 off)] else none) ∧
  (∀ a b : Nat, assemble (.setops a b) =
    if a < 2 ^ 32 ∧ b < 2 ^ 32 then
      some [.write 32 0x24#8 (BitVec.ofNat 32 a), .write 32 0x28#8 (BitVec.ofNat 32 b)]
    else none) ∧
  assemble .rdstat = some [.read 32 0x04#8] ∧ assemble .rdcrc = some [.read 32 0x14#8]

/-- 20_memory.md R57: byte lane k carries bits [8k+7:8k], and the four lanes make up the word. -/
def Obligations.ByteLanesAreLittleEndian : Prop :=
  ∀ v : Word,
    Operands.wordOfLanes (Operands.byteLane v 0) (Operands.byteLane v 1) (Operands.byteLane v 2)
      (Operands.byteLane v 3) = v ∧
    ∀ k i : Nat, k < 4 → i < 8 → (Operands.byteLane v k).getLsbD i = v.getLsbD (8 * k + i)
end

