-- ==== Sys2Proof/Laws/State.lean ====
section
/-! SUPPORT. What each field of the state is after each named update of Machine/Ops.lean. -/

namespace Sys2Proof.Machine.State

variable (s : State)

/-! ### recordError -/

@[simp] theorem recordError_err (c : ErrCode) : (s.recordError c).err = true := by
  unfold recordError; split <;> simp_all
@[simp] theorem recordError_errcode (c : ErrCode) :
    (s.recordError c).errcode = if s.err then s.errcode else c := by
  unfold recordError; split <;> simp_all
@[simp] theorem recordError_cfg (c : ErrCode) : (s.recordError c).cfg = s.cfg := by
  unfold recordError; split <;> rfl
@[simp] theorem recordError_phase (c : ErrCode) : (s.recordError c).phase = s.phase := by
  unfold recordError; split <;> rfl
@[simp] theorem recordError_wsize (c : ErrCode) : (s.recordError c).wsize = s.wsize := by
  unfold recordError; split <;> rfl
@[simp] theorem recordError_pos (c : ErrCode) : (s.recordError c).pos = s.pos := by
  unfold recordError; split <;> rfl
@[simp] theorem recordError_acc (c : ErrCode) : (s.recordError c).acc = s.acc := by
  unfold recordError; split <;> rfl
@[simp] theorem recordError_lastOut (c : ErrCode) : (s.recordError c).lastOut = s.lastOut := by
  unfold recordError; split <;> rfl
@[simp] theorem recordError_xpow (c : ErrCode) : (s.recordError c).xpow = s.xpow := by
  unfold recordError; split <;> rfl
@[simp] theorem recordError_crcxor (c : ErrCode) : (s.recordError c).crcxor = s.crcxor := by
  unfold recordError; split <;> rfl
@[simp] theorem recordError_opa (c : ErrCode) : (s.recordError c).opa = s.opa := by
  unfold recordError; split <;> rfl
@[simp] theorem recordError_opb (c : ErrCode) : (s.recordError c).opb = s.opb := by
  unfold recordError; split <;> rfl
@[simp] theorem recordError_auxres (c : ErrCode) : (s.recordError c).auxres = s.auxres := by
  unfold recordError; split <;> rfl
@[simp] theorem recordError_win (c : ErrCode) : (s.recordError c).win = s.win := by
  unfold recordError; split <;> rfl
@[simp] theorem recordError_std (c : ErrCode) : (s.recordError c).std = s.std := by
  unfold recordError; split <;> rfl
@[simp] theorem recordError_prefixTable (c : ErrCode) : (s.recordError c).prefixTable = s.prefixTable := by
  unfold recordError; split <;> rfl
@[simp] theorem recordError_epoch (c : ErrCode) : (s.recordError c).epoch = s.epoch := by
  unfold recordError; split <;> rfl
@[simp] theorem recordError_pending (c : ErrCode) : (s.recordError c).pending = s.pending := by
  unfold recordError; split <;> rfl
@[simp] theorem recordError_reads (c : ErrCode) : (s.recordError c).reads = s.reads := by
  unfold recordError; split <;> rfl

theorem recordError_of_err (c : ErrCode) (h : s.err = true) : s.recordError c = s := by
  simp [recordError, h]
theorem recordError_of_no_err (c : ErrCode) (h : s.err = false) :
    s.recordError c = { s with err := true, errcode := c } := by
  simp [recordError, h]

/-! ### clearError -/

@[simp] theorem clearError_cfg : s.clearError.cfg = s.cfg := rfl
@[simp] theorem clearError_phase : s.clearError.phase = s.phase := rfl
@[simp] theorem clearError_err : s.clearError.err = false := rfl
@[simp] theorem clearError_errcode : s.clearError.errcode = .none := rfl
@[simp] theorem clearError_wsize : s.clearError.wsize = s.wsize := rfl
@[simp] theorem clearError_pos : s.clearError.pos = s.pos := rfl
@[simp] theorem clearError_acc : s.clearError.acc = s.acc := rfl
@[simp] theorem clearError_lastOut : s.clearError.lastOut = s.lastOut := rfl
@[simp] theorem clearError_xpow : s.clearError.xpow = s.xpow := rfl
@[simp] theorem clearError_crcxor : s.clearError.crcxor = s.crcxor := rfl
@[simp] theorem clearError_opa : s.clearError.opa = s.opa := rfl
@[simp] theorem clearError_opb : s.clearError.opb = s.opb := rfl
@[simp] theorem clearError_auxres : s.clearError.auxres = s.auxres := rfl
@[simp] theorem clearError_win : s.clearError.win = s.win := rfl
@[simp] theorem clearError_std : s.clearError.std = s.std := rfl
@[simp] theorem clearError_prefixTable : s.clearError.prefixTable = s.prefixTable := rfl
@[simp] theorem clearError_epoch : s.clearError.epoch = s.epoch := rfl
@[simp] theorem clearError_pending : s.clearError.pending = s.pending := rfl
@[simp] theorem clearError_reads : s.clearError.reads = s.reads := rfl

/-! ### storeWin -/

@[simp] theorem storeWin_cfg (i : Nat) (b : Byte) : (s.storeWin i b).cfg = s.cfg := rfl
@[simp] theorem storeWin_phase (i : Nat) (b : Byte) : (s.storeWin i b).phase = s.phase := rfl
@[simp] theorem storeWin_err (i : Nat) (b : Byte) : (s.storeWin i b).err = s.err := rfl
@[simp] theorem storeWin_errcode (i : Nat) (b : Byte) : (s.storeWin i b).errcode = s.errcode := rfl
@[simp] theorem storeWin_wsize (i : Nat) (b : Byte) : (s.storeWin i b).wsize = s.wsize := rfl
@[simp] theorem storeWin_pos (i : Nat) (b : Byte) : (s.storeWin i b).pos = s.pos := rfl
@[simp] theorem storeWin_acc (i : Nat) (b : Byte) : (s.storeWin i b).acc = s.acc := rfl
@[simp] theorem storeWin_lastOut (i : Nat) (b : Byte) : (s.storeWin i b).lastOut = s.lastOut := rfl
@[simp] theorem storeWin_xpow (i : Nat) (b : Byte) : (s.storeWin i b).xpow = s.xpow := rfl
@[simp] theorem storeWin_crcxor (i : Nat) (b : Byte) : (s.storeWin i b).crcxor = s.crcxor := rfl
@[simp] theorem storeWin_opa (i : Nat) (b : Byte) : (s.storeWin i b).opa = s.opa := rfl
@[simp] theorem storeWin_opb (i : Nat) (b : Byte) : (s.storeWin i b).opb = s.opb := rfl
@[simp] theorem storeWin_auxres (i : Nat) (b : Byte) : (s.storeWin i b).auxres = s.auxres := rfl
@[simp] theorem storeWin_win (i : Nat) (b : Byte) : (s.storeWin i b).win = s.win.write i b := rfl
@[simp] theorem storeWin_std (i : Nat) (b : Byte) : (s.storeWin i b).std = s.std := rfl
@[simp] theorem storeWin_prefixTable (i : Nat) (b : Byte) :
    (s.storeWin i b).prefixTable = s.prefixTable := rfl
@[simp] theorem storeWin_epoch (i : Nat) (b : Byte) : (s.storeWin i b).epoch = s.epoch := rfl
@[simp] theorem storeWin_pending (i : Nat) (b : Byte) : (s.storeWin i b).pending = s.pending := rfl
@[simp] theorem storeWin_reads (i : Nat) (b : Byte) : (s.storeWin i b).reads = s.reads := rfl

/-! ### setAuxres -/

@[simp] theorem setAuxres_cfg (v : Word) : (s.setAuxres v).cfg = s.cfg := rfl
@[simp] theorem setAuxres_phase (v : Word) : (s.setAuxres v).phase = s.phase := rfl
@[simp] theorem setAuxres_err (v : Word) : (s.setAuxres v).err = s.err := rfl
@[simp] theorem setAuxres_errcode (v : Word) : (s.setAuxres v).errcode = s.errcode := rfl
@[simp] theorem setAuxres_wsize (v : Word) : (s.setAuxres v).wsize = s.wsize := rfl
@[simp] theorem setAuxres_pos (v : Word) : (s.setAuxres v).pos = s.pos := rfl
@[simp] theorem setAuxres_acc (v : Word) : (s.setAuxres v).acc = s.acc := rfl
@[simp] theorem setAuxres_lastOut (v : Word) : (s.setAuxres v).lastOut = s.lastOut := rfl
@[simp] theorem setAuxres_xpow (v : Word) : (s.setAuxres v).xpow = s.xpow := rfl
@[simp] theorem setAuxres_crcxor (v : Word) : (s.setAuxres v).crcxor = s.crcxor := rfl
@[simp] theorem setAuxres_opa (v : Word) : (s.setAuxres v).opa = s.opa := rfl
@[simp] theorem setAuxres_opb (v : Word) : (s.setAuxres v).opb = s.opb := rfl
@[simp] theorem setAuxres_auxres (v : Word) : (s.setAuxres v).auxres = v := rfl
@[simp] theorem setAuxres_win (v : Word) : (s.setAuxres v).win = s.win := rfl
@[simp] theorem setAuxres_std (v : Word) : (s.setAuxres v).std = s.std := rfl
@[simp] theorem setAuxres_prefixTable (v : Word) :
    (s.setAuxres v).prefixTable = s.prefixTable := rfl
@[simp] theorem setAuxres_epoch (v : Word) : (s.setAuxres v).epoch = s.epoch := rfl
@[simp] theorem setAuxres_pending (v : Word) : (s.setAuxres v).pending = s.pending := rfl
@[simp] theorem setAuxres_reads (v : Word) : (s.setAuxres v).reads = s.reads := rfl

/-! ### setOpa -/

@[simp] theorem setOpa_cfg (v : Word) : (s.setOpa v).cfg = s.cfg := rfl
@[simp] theorem setOpa_phase (v : Word) : (s.setOpa v).phase = s.phase := rfl
@[simp] theorem setOpa_err (v : Word) : (s.setOpa v).err = s.err := rfl
@[simp] theorem setOpa_errcode (v : Word) : (s.setOpa v).errcode = s.errcode := rfl
@[simp] theorem setOpa_wsize (v : Word) : (s.setOpa v).wsize = s.wsize := rfl
@[simp] theorem setOpa_pos (v : Word) : (s.setOpa v).pos = s.pos := rfl
@[simp] theorem setOpa_acc (v : Word) : (s.setOpa v).acc = s.acc := rfl
@[simp] theorem setOpa_lastOut (v : Word) : (s.setOpa v).lastOut = s.lastOut := rfl
@[simp] theorem setOpa_xpow (v : Word) : (s.setOpa v).xpow = s.xpow := rfl
@[simp] theorem setOpa_crcxor (v : Word) : (s.setOpa v).crcxor = s.crcxor := rfl
@[simp] theorem setOpa_opa (v : Word) : (s.setOpa v).opa = v := rfl
@[simp] theorem setOpa_opb (v : Word) : (s.setOpa v).opb = s.opb := rfl
@[simp] theorem setOpa_auxres (v : Word) : (s.setOpa v).auxres = s.auxres := rfl
@[simp] theorem setOpa_win (v : Word) : (s.setOpa v).win = s.win := rfl
@[simp] theorem setOpa_std (v : Word) : (s.setOpa v).std = s.std := rfl
@[simp] theorem setOpa_prefixTable (v : Word) : (s.setOpa v).prefixTable = s.prefixTable := rfl
@[simp] theorem setOpa_epoch (v : Word) : (s.setOpa v).epoch = s.epoch := rfl
@[simp] theorem setOpa_pending (v : Word) : (s.setOpa v).pending = s.pending := rfl
@[simp] theorem setOpa_reads (v : Word) : (s.setOpa v).reads = s.reads := rfl

/-! ### setOpb -/

@[simp] theorem setOpb_cfg (v : Word) : (s.setOpb v).cfg = s.cfg := rfl
@[simp] theorem setOpb_phase (v : Word) : (s.setOpb v).phase = s.phase := rfl
@[simp] theorem setOpb_err (v : Word) : (s.setOpb v).err = s.err := rfl
@[simp] theorem setOpb_errcode (v : Word) : (s.setOpb v).errcode = s.errcode := rfl
@[simp] theorem setOpb_wsize (v : Word) : (s.setOpb v).wsize = s.wsize := rfl
@[simp] theorem setOpb_pos (v : Word) : (s.setOpb v).pos = s.pos := rfl
@[simp] theorem setOpb_acc (v : Word) : (s.setOpb v).acc = s.acc := rfl
@[simp] theorem setOpb_lastOut (v : Word) : (s.setOpb v).lastOut = s.lastOut := rfl
@[simp] theorem setOpb_xpow (v : Word) : (s.setOpb v).xpow = s.xpow := rfl
@[simp] theorem setOpb_crcxor (v : Word) : (s.setOpb v).crcxor = s.crcxor := rfl
@[simp] theorem setOpb_opa (v : Word) : (s.setOpb v).opa = s.opa := rfl
@[simp] theorem setOpb_opb (v : Word) : (s.setOpb v).opb = v := rfl
@[simp] theorem setOpb_auxres (v : Word) : (s.setOpb v).auxres = s.auxres := rfl
@[simp] theorem setOpb_win (v : Word) : (s.setOpb v).win = s.win := rfl
@[simp] theorem setOpb_std (v : Word) : (s.setOpb v).std = s.std := rfl
@[simp] theorem setOpb_prefixTable (v : Word) : (s.setOpb v).prefixTable = s.prefixTable := rfl
@[simp] theorem setOpb_epoch (v : Word) : (s.setOpb v).epoch = s.epoch := rfl
@[simp] theorem setOpb_pending (v : Word) : (s.setOpb v).pending = s.pending := rfl
@[simp] theorem setOpb_reads (v : Word) : (s.setOpb v).reads = s.reads := rfl

/-! ### loadConstants -/

@[simp] theorem loadConstants_cfg (w : Nat) : (s.loadConstants w).cfg = s.cfg := rfl
@[simp] theorem loadConstants_phase (w : Nat) : (s.loadConstants w).phase = s.phase := rfl
@[simp] theorem loadConstants_err (w : Nat) : (s.loadConstants w).err = s.err := rfl
@[simp] theorem loadConstants_errcode (w : Nat) : (s.loadConstants w).errcode = s.errcode := rfl
@[simp] theorem loadConstants_wsize (w : Nat) : (s.loadConstants w).wsize = BitVec.ofNat 24 w := rfl
@[simp] theorem loadConstants_pos (w : Nat) : (s.loadConstants w).pos = s.pos := rfl
@[simp] theorem loadConstants_acc (w : Nat) : (s.loadConstants w).acc = s.acc := rfl
@[simp] theorem loadConstants_lastOut (w : Nat) : (s.loadConstants w).lastOut = s.lastOut := rfl
@[simp] theorem loadConstants_xpow (w : Nat) : (s.loadConstants w).xpow = Gf2.xpow (8 * w) := rfl
@[simp] theorem loadConstants_crcxor (w : Nat) :
    (s.loadConstants w).crcxor = correction (Gf2.xpow (8 * w)) := rfl
@[simp] theorem loadConstants_opa (w : Nat) : (s.loadConstants w).opa = s.opa := rfl
@[simp] theorem loadConstants_opb (w : Nat) : (s.loadConstants w).opb = s.opb := rfl
@[simp] theorem loadConstants_auxres (w : Nat) : (s.loadConstants w).auxres = s.auxres := rfl
@[simp] theorem loadConstants_win (w : Nat) : (s.loadConstants w).win = s.win := rfl
@[simp] theorem loadConstants_std (w : Nat) : (s.loadConstants w).std = s.std := rfl
@[simp] theorem loadConstants_prefixTable (w : Nat) :
    (s.loadConstants w).prefixTable = some (buildTable (prefixSeed (Gf2.xpow (8 * w)))) := rfl
@[simp] theorem loadConstants_epoch (w : Nat) : (s.loadConstants w).epoch = s.epoch := rfl
@[simp] theorem loadConstants_pending (w : Nat) : (s.loadConstants w).pending = s.pending := rfl
@[simp] theorem loadConstants_reads (w : Nat) : (s.loadConstants w).reads = s.reads := rfl

/-! ### startStream -/

@[simp] theorem startStream_cfg : s.startStream.cfg = s.cfg := rfl
@[simp] theorem startStream_phase : s.startStream.phase = .fill := rfl
@[simp] theorem startStream_err : s.startStream.err = s.err := rfl
@[simp] theorem startStream_errcode : s.startStream.errcode = s.errcode := rfl
@[simp] theorem startStream_wsize : s.startStream.wsize = s.wsize := rfl
@[simp] theorem startStream_pos : s.startStream.pos = 0#24 := rfl
@[simp] theorem startStream_acc : s.startStream.acc = 0#32 := rfl
@[simp] theorem startStream_lastOut : s.startStream.lastOut = s.lastOut := rfl
@[simp] theorem startStream_xpow : s.startStream.xpow = s.xpow := rfl
@[simp] theorem startStream_crcxor : s.startStream.crcxor = s.crcxor := rfl
@[simp] theorem startStream_opa : s.startStream.opa = s.opa := rfl
@[simp] theorem startStream_opb : s.startStream.opb = s.opb := rfl
@[simp] theorem startStream_auxres : s.startStream.auxres = s.auxres := rfl
@[simp] theorem startStream_win : s.startStream.win = s.win := rfl
@[simp] theorem startStream_std : s.startStream.std = s.std := rfl
@[simp] theorem startStream_prefixTable : s.startStream.prefixTable = s.prefixTable := rfl
@[simp] theorem startStream_epoch : s.startStream.epoch = s.epoch := rfl
@[simp] theorem startStream_pending : s.startStream.pending = s.pending := rfl
@[simp] theorem startStream_reads : s.startStream.reads = s.reads := rfl

/-! ### logRead -/

@[simp] theorem logRead_cfg (v : Word) : (s.logRead v).cfg = s.cfg := rfl
@[simp] theorem logRead_phase (v : Word) : (s.logRead v).phase = s.phase := rfl
@[simp] theorem logRead_err (v : Word) : (s.logRead v).err = s.err := rfl
@[simp] theorem logRead_errcode (v : Word) : (s.logRead v).errcode = s.errcode := rfl
@[simp] theorem logRead_wsize (v : Word) : (s.logRead v).wsize = s.wsize := rfl
@[simp] theorem logRead_pos (v : Word) : (s.logRead v).pos = s.pos := rfl
@[simp] theorem logRead_acc (v : Word) : (s.logRead v).acc = s.acc := rfl
@[simp] theorem logRead_lastOut (v : Word) : (s.logRead v).lastOut = s.lastOut := rfl
@[simp] theorem logRead_xpow (v : Word) : (s.logRead v).xpow = s.xpow := rfl
@[simp] theorem logRead_crcxor (v : Word) : (s.logRead v).crcxor = s.crcxor := rfl
@[simp] theorem logRead_opa (v : Word) : (s.logRead v).opa = s.opa := rfl
@[simp] theorem logRead_opb (v : Word) : (s.logRead v).opb = s.opb := rfl
@[simp] theorem logRead_auxres (v : Word) : (s.logRead v).auxres = s.auxres := rfl
@[simp] theorem logRead_win (v : Word) : (s.logRead v).win = s.win := rfl
@[simp] theorem logRead_std (v : Word) : (s.logRead v).std = s.std := rfl
@[simp] theorem logRead_prefixTable (v : Word) : (s.logRead v).prefixTable = s.prefixTable := rfl
@[simp] theorem logRead_epoch (v : Word) : (s.logRead v).epoch = s.epoch := rfl
@[simp] theorem logRead_pending (v : Word) : (s.logRead v).pending = s.pending := rfl
@[simp] theorem logRead_reads (v : Word) : (s.logRead v).reads = s.reads ++ [v] := rfl

/-! ### withPending -/

@[simp] theorem withPending_cfg (ms : List HostMove) : (s.withPending ms).cfg = s.cfg := rfl
@[simp] theorem withPending_phase (ms : List HostMove) : (s.withPending ms).phase = s.phase := rfl
@[simp] theorem withPending_err (ms : List HostMove) : (s.withPending ms).err = s.err := rfl
@[simp] theorem withPending_errcode (ms : List HostMove) :
    (s.withPending ms).errcode = s.errcode := rfl
@[simp] theorem withPending_wsize (ms : List HostMove) : (s.withPending ms).wsize = s.wsize := rfl
@[simp] theorem withPending_pos (ms : List HostMove) : (s.withPending ms).pos = s.pos := rfl
@[simp] theorem withPending_acc (ms : List HostMove) : (s.withPending ms).acc = s.acc := rfl
@[simp] theorem withPending_lastOut (ms : List HostMove) :
    (s.withPending ms).lastOut = s.lastOut := rfl
@[simp] theorem withPending_xpow (ms : List HostMove) : (s.withPending ms).xpow = s.xpow := rfl
@[simp] theorem withPending_crcxor (ms : List HostMove) :
    (s.withPending ms).crcxor = s.crcxor := rfl
@[simp] theorem withPending_opa (ms : List HostMove) : (s.withPending ms).opa = s.opa := rfl
@[simp] theorem withPending_opb (ms : List HostMove) : (s.withPending ms).opb = s.opb := rfl
@[simp] theorem withPending_auxres (ms : List HostMove) :
    (s.withPending ms).auxres = s.auxres := rfl
@[simp] theorem withPending_win (ms : List HostMove) : (s.withPending ms).win = s.win := rfl
@[simp] theorem withPending_std (ms : List HostMove) : (s.withPending ms).std = s.std := rfl
@[simp] theorem withPending_prefixTable (ms : List HostMove) :
    (s.withPending ms).prefixTable = s.prefixTable := rfl
@[simp] theorem withPending_epoch (ms : List HostMove) : (s.withPending ms).epoch = s.epoch := rfl
@[simp] theorem withPending_pending (ms : List HostMove) : (s.withPending ms).pending = ms := rfl
@[simp] theorem withPending_reads (ms : List HostMove) : (s.withPending ms).reads = s.reads := rfl

/-! ### afterReset -/

@[simp] theorem afterReset_cfg : s.afterReset.cfg = s.cfg := rfl
@[simp] theorem afterReset_phase : s.afterReset.phase = .unconfigured := rfl
@[simp] theorem afterReset_err : s.afterReset.err = false := rfl
@[simp] theorem afterReset_errcode : s.afterReset.errcode = .none := rfl
@[simp] theorem afterReset_wsize : s.afterReset.wsize = 0#24 := rfl
@[simp] theorem afterReset_pos : s.afterReset.pos = 0#24 := rfl
@[simp] theorem afterReset_acc : s.afterReset.acc = 0#32 := rfl
@[simp] theorem afterReset_lastOut : s.afterReset.lastOut = 0#32 := rfl
@[simp] theorem afterReset_xpow : s.afterReset.xpow = 0#32 := rfl
@[simp] theorem afterReset_crcxor : s.afterReset.crcxor = 0#32 := rfl
@[simp] theorem afterReset_opa : s.afterReset.opa = 0#32 := rfl
@[simp] theorem afterReset_opb : s.afterReset.opb = 0#32 := rfl
@[simp] theorem afterReset_auxres : s.afterReset.auxres = 0#32 := rfl
@[simp] theorem afterReset_win : s.afterReset.win = [] := rfl
@[simp] theorem afterReset_std : s.afterReset.std = s.std := rfl
@[simp] theorem afterReset_prefixTable : s.afterReset.prefixTable = none := rfl
@[simp] theorem afterReset_epoch : s.afterReset.epoch = s.epoch + 1 := rfl
@[simp] theorem afterReset_pending : s.afterReset.pending = s.pending := rfl
@[simp] theorem afterReset_reads : s.afterReset.reads = s.reads := rfl

end Sys2Proof.Machine.State
end

