-- ==== Sys2Proof/Laws/Memory.lean ====
section
/-! SUPPORT. The laws of the window memory: read after write, and the canonical form. -/

namespace Sys2Proof.Machine

namespace Memory

@[simp] theorem read_nil (i : Nat) : Memory.read [] i = none := rfl

@[simp] theorem wf_nil : Memory.wf [] = true := rfl

theorem wf_iff (m : Memory) : m.wf = true ↔ m.Pairwise fun p q => p.1 < q.1 := by
  simp [Memory.wf]

theorem read_none_of_lt {m : Memory} {i : Nat} (h : ∀ c ∈ m, i < c.1) : m.read i = none := by
  induction m with
  | nil => rfl
  | cons c m ih =>
    have hc := h c (by simp)
    simp only [Memory.read]
    rw [if_neg (by omega)]
    exact ih fun d hd => h d (by simp [hd])

@[simp] theorem read_write_same (m : Memory) (i : Nat) (b : Byte) : (m.write i b).read i = some b := by
  induction m with
  | nil => simp [Memory.write, Memory.read]
  | cons c m ih =>
    simp only [Memory.write]
    split
    · simp [Memory.read]
    · split
      · simp [Memory.read]
      · next h => simp [Memory.read, h, ih]

theorem read_write_other (m : Memory) {i j : Nat} (b : Byte) (h : j ≠ i) :
    (m.write i b).read j = m.read j := by
  induction m with
  | nil => simp [Memory.write, Memory.read, h.symm]
  | cons c m ih =>
    simp only [Memory.write]
    split
    · simp [Memory.read, h.symm]
    · split
      · next hc => subst hc; simp [Memory.read, h.symm]
      · simp [Memory.read, ih]

theorem read_write (m : Memory) (i j : Nat) (b : Byte) :
    (m.write i b).read j = if j = i then some b else m.read j := by
  split
  · next h => subst h; simp
  · next h => exact read_write_other m b h

/-- Every listed slot of a write is the written one or was listed before. -/
theorem mem_write {m : Memory} {i : Nat} {b : Byte} {c : Host.Cell} (h : c ∈ m.write i b) :
    c = (i, b) ∨ c ∈ m := by
  induction m with
  | nil => simpa [Memory.write] using h
  | cons d m ih =>
    simp only [Memory.write] at h
    split at h
    · simpa using h
    · split at h
      · rcases List.mem_cons.mp h with h | h
        · exact .inl h
        · exact .inr (by simp [h])
      · rcases List.mem_cons.mp h with h | h
        · exact .inr (by simp [h])
        · rcases ih h with h | h
          · exact .inl h
          · exact .inr (by simp [h])

/-- A write keeps the canonical form. -/
theorem wf_write {m : Memory} (i : Nat) (b : Byte) (h : m.wf = true) : (m.write i b).wf = true := by
  rw [wf_iff] at h ⊢
  induction m with
  | nil => simp [Memory.write]
  | cons c m ih =>
    obtain ⟨hc, hm⟩ := List.pairwise_cons.mp h
    simp only [Memory.write]
    split
    · next hi =>
      refine List.pairwise_cons.mpr ⟨fun d hd => ?_, h⟩
      rcases List.mem_cons.mp hd with rfl | hd
      · exact hi
      · exact Nat.lt_trans hi (hc d hd)
    · split
      · next hi => exact List.pairwise_cons.mpr ⟨fun d hd => hi ▸ hc d hd, hm⟩
      · next h1 h2 =>
        refine List.pairwise_cons.mpr ⟨fun d hd => ?_, ih hm⟩
        rcases mem_write hd with rfl | hd
        · show c.1 < i
          omega
        · exact hc d hd

/-- Writing the same slot twice leaves the later byte. -/
theorem write_write (m : Memory) (i : Nat) (b c : Byte) : (m.write i b).write i c = m.write i c := by
  induction m with
  | nil => simp [Memory.write]
  | cons d m ih =>
    simp only [Memory.write]
    split
    · simp [Memory.write]
    · split
      · next h => simp [Memory.write]
      · next h1 h2 => simp [Memory.write, h1, h2, ih]

end Memory

namespace State

variable (s : State)

theorem winByte_storeWin (i j : Nat) (b : Byte) :
    (s.storeWin i b).winByte j = if j = i then b else s.winByte j := by
  simp only [winByte, storeWin_win, storeWin_epoch, Memory.read_write]
  split <;> rfl

@[simp] theorem winByte_storeWin_same (i : Nat) (b : Byte) : (s.storeWin i b).winByte i = b := by
  simp [winByte_storeWin]

theorem winByte_storeWin_other {i j : Nat} (b : Byte) (h : j ≠ i) :
    (s.storeWin i b).winByte j = s.winByte j := by
  simp [winByte_storeWin, h]

/-- Everything a window read can answer. -/
theorem readWin_ok_iff (i : Nat) (b : Byte) :
    s.readWin i = .ok b ↔ i < s.cfg.wmax.toNat ∧ b = s.winByte i := by
  by_cases h : i < s.cfg.wmax.toNat <;> simp [readWin, slotExists, h, eq_comm]

/-- Everything a window write can answer. -/
theorem writeWin_ok_iff (i : Nat) (b : Byte) (t : State) :
    s.writeWin i b = .ok t ↔ i < s.cfg.wmax.toNat ∧ t = s.storeWin i b := by
  by_cases h : i < s.cfg.wmax.toNat <;> simp [writeWin, slotExists, h, eq_comm]

theorem readWin_of_lt {i : Nat} (h : i < s.cfg.wmax.toNat) : s.readWin i = .ok (s.winByte i) :=
  (s.readWin_ok_iff i _).mpr ⟨h, rfl⟩

theorem writeWin_of_lt {i : Nat} (b : Byte) (h : i < s.cfg.wmax.toNat) :
    s.writeWin i b = .ok (s.storeWin i b) :=
  (s.writeWin_ok_iff i b _).mpr ⟨h, rfl⟩

theorem readWin_of_ge {i : Nat} (h : s.cfg.wmax.toNat ≤ i) :
    s.readWin i = .error .windowSlotAbsent := by
  simp [readWin, slotExists, Nat.not_lt.mpr h]

theorem writeWin_of_ge {i : Nat} (b : Byte) (h : s.cfg.wmax.toNat ≤ i) :
    s.writeWin i b = .error .windowSlotAbsent := by
  simp [writeWin, slotExists, Nat.not_lt.mpr h]

end State

theorem nextPos_of_ne {wsize : Size} (p : Size) (h : wsize ≠ 0#24) :
    nextPos wsize p = BitVec.ofNat 24 ((p.toNat + 1) % wsize.toNat) := by
  simp [nextPos, h]

/-- POS advances by one below the last slot (42_engine.md R164). -/
theorem nextPos_toNat {wsize p : Size} (h : p.toNat < wsize.toNat) :
    (nextPos wsize p).toNat = (p.toNat + 1) % wsize.toNat := by
  have hlt : (p.toNat + 1) % wsize.toNat < wsize.toNat := Nat.mod_lt _ (by omega)
  have hw : wsize.toNat < 2 ^ 24 := wsize.isLt
  have hne : wsize ≠ 0#24 := by rintro rfl; simp at h
  rw [nextPos_of_ne p hne, BitVec.toNat_ofNat]
  exact Nat.mod_eq_of_lt (Nat.lt_trans hlt hw)

theorem nextPos_lt {wsize p : Size} (h : p.toNat < wsize.toNat) :
    (nextPos wsize p).toNat < wsize.toNat := by
  rw [nextPos_toNat h]
  exact Nat.mod_lt _ (by omega)

end Sys2Proof.Machine
end

