-- ==== Sys2Proof/Laws/Commands.lean ====
section
/-! SUPPORT. What each command that can fail, and each step, can answer: one inversion lemma per
function. -/

namespace Sys2Proof.Machine

/-- The state a successful FILL leaves (42_engine.md R162). -/
def State.filled (s : State) (b : Byte) : State :=
  { s.storeWin s.pos.toNat b with
    acc := byteUpdate s.std s.acc b
    phase := if s.pos.toNat + 1 = s.wsize.toNat then .run else .fill
    pos := nextPos s.wsize s.pos }

/-- The state a successful STEP leaves (42_engine.md R166). -/
def State.stepped (s : State) (b : Byte) : State :=
  { s.storeWin s.pos.toNat b with
    acc := s.slideAcc b (s.winByte s.pos.toNat)
    lastOut := s.crcOut
    pos := nextPos s.wsize s.pos }

theorem execConfig_next {w : Nat} {s t : State} (h : execConfig w s = .next t) :
    ((w = 0 ∨ s.cfg.wmax.toNat < w) ∧ t = s.recordError .badW) ∨
    (1 ≤ w ∧ w ≤ s.cfg.wmax.toNat ∧ t = (s.loadConstants w).startStream) := by
  unfold execConfig at h
  split at h
  · next hw => exact .inl ⟨hw, (by simpa [raise] using h.symm)⟩
  · next hw => exact .inr ⟨by omega, by omega, (by simpa using h.symm)⟩

theorem execFill_next {b : Byte} {s t : State} (h : execFill b s = .next t) :
    (s.phase = .unconfigured ∧ t = s.recordError .notConfigured) ∨
    (s.phase = .run ∧ t = s.recordError .phase) ∨
    (s.phase = .fill ∧ s.pos.toNat < s.cfg.wmax.toNat ∧ t = s.filled b) := by
  unfold execFill at h
  split at h
  · next hp => exact .inl ⟨hp, (by simpa [raise] using h.symm)⟩
  · next hp => exact .inr (.inl ⟨hp, (by simpa [raise] using h.symm)⟩)
  · next hp =>
    split at h
    · cases h
    · next hw =>
      obtain ⟨hlt, rfl⟩ := (s.writeWin_ok_iff _ _ _).mp hw
      exact .inr (.inr ⟨hp, hlt, (Host.Outcome.next.inj h).symm⟩)

theorem execStep_next {b : Byte} {s t : State} (h : execStep b s = .next t) :
    (s.phase = .unconfigured ∧ t = s.recordError .notConfigured) ∨
    (s.phase = .fill ∧ t = s.recordError .phase) ∨
    (s.phase = .run ∧ s.pos.toNat < s.cfg.wmax.toNat ∧ t = s.stepped b) := by
  unfold execStep at h
  split at h
  · next hp => exact .inl ⟨hp, (by simpa [raise] using h.symm)⟩
  · next hp => exact .inr (.inl ⟨hp, (by simpa [raise] using h.symm)⟩)
  · next hp =>
    split at h
    · cases h
    · next old hr =>
      obtain ⟨-, rfl⟩ := (s.readWin_ok_iff _ _).mp hr
      split at h
      · cases h
      · next hw =>
        obtain ⟨hlt, rfl⟩ := (s.writeWin_ok_iff _ _ _).mp hw
        exact .inr (.inr ⟨hp, hlt, (Host.Outcome.next.inj h).symm⟩)

theorem execRestart_next {s t : State} (h : execRestart s = .next t) :
    (s.phase = .unconfigured ∧ t = s.recordError .notConfigured) ∨
    (s.phase ≠ .unconfigured ∧ t = s.startStream) := by
  unfold execRestart at h
  split at h
  · next hp => exact .inl ⟨hp, (by simpa [raise] using h.symm)⟩
  · next hp => exact .inr ⟨by simp [hp], (Host.Outcome.next.inj h).symm⟩
  · next hp => exact .inr ⟨by simp [hp], (Host.Outcome.next.inj h).symm⟩

theorem execTblrd_next {sel : TableSel} {idx : Byte} {s t : State}
    (h : execTblrd sel idx s = .next t) :
    (sel = .std ∧ t = s.setAuxres (s.stdEntry idx)) ∨
    (sel = .prefixTable ∧ s.phase = .unconfigured ∧ t = s.recordError .notConfigured) ∨
    (sel = .prefixTable ∧ s.phase ≠ .unconfigured ∧ t = s.setAuxres (s.prefixEntry idx)) := by
  unfold execTblrd at h
  split at h
  · exact .inl ⟨rfl, (Host.Outcome.next.inj h).symm⟩
  · split at h
    · next hp => exact .inr (.inl ⟨rfl, hp, (by simpa [raise] using h.symm)⟩)
    · next hp => exact .inr (.inr ⟨rfl, by simp [hp], (Host.Outcome.next.inj h).symm⟩)
    · next hp => exact .inr (.inr ⟨rfl, by simp [hp], (Host.Outcome.next.inj h).symm⟩)

/-- What a command word can do. -/
theorem executeCommand_next {v : Word} {s t : State} (h : executeCommand v s = .next t) :
    (∃ i, decode v = .ok i ∧ exec i s = .next t) ∨
    (∃ e, decode v = .error e ∧ t = s.recordError .illegal) := by
  unfold executeCommand at h
  split at h
  · next i hi => exact .inl ⟨i, hi, h⟩
  · next e he => exact .inr ⟨e, he, (by simpa [raise] using h.symm)⟩

/-- What an admitted register write can do. -/
theorem hostWrite_next {off : BitVec 8} {v : Word} {s t : State} (h : hostWrite off v s = .next t) :
    (off = 0x00#8 ∧ executeCommand v s = .next t) ∨ (off = 0x24#8 ∧ t = s.setOpa v) ∨
    (off = 0x28#8 ∧ t = s.setOpb v) ∨ t = s := by
  unfold hostWrite at h
  split at h
  · next ho => exact .inl ⟨BitVec.eq_of_toNat_eq ho, h⟩
  · next ho => exact .inr (.inl ⟨BitVec.eq_of_toNat_eq ho, (Host.Outcome.next.inj h).symm⟩)
  · next ho => exact .inr (.inr (.inl ⟨BitVec.eq_of_toNat_eq ho, (Host.Outcome.next.inj h).symm⟩))
  · exact .inr (.inr (.inr (Host.Outcome.next.inj h).symm))

/-- What the service of a host move can do. -/
theorem serve_next {m : HostMove} {s t : State} (h : serve m s = .next t) :
    (∃ width off, m = .read width off ∧ accessRefusal width off = none ∧
      t = s.logRead (hostRead off s)) ∨
    (∃ width off v, m = .write width off v ∧ accessRefusal width off = none ∧
      hostWrite off v s = .next t) ∨
    (m = .reset ∧ t = s.afterReset) := by
  cases m with
  | read width off =>
    simp only [serve] at h
    split at h
    · cases h
    · next hr => exact .inl ⟨width, off, rfl, hr, (Host.Outcome.next.inj h).symm⟩
  | write width off v =>
    simp only [serve] at h
    split at h
    · cases h
    · next hr => exact .inr (.inl ⟨width, off, v, rfl, hr, h⟩)
  | reset => exact .inr (.inr ⟨rfl, (Host.Outcome.next.inj h).symm⟩)

/-- What a step can do. -/
theorem step_next {s t : State} (h : step s = .next t) :
    (s.pending = [] ∧ t = s) ∨
    (∃ m rest, s.pending = m :: rest ∧ serve m (s.withPending rest) = .next t) := by
  simp only [step, serveNext] at h
  split at h
  · next hp => exact .inl ⟨hp, (Host.Outcome.next.inj h).symm⟩
  · next m rest hp => exact .inr ⟨m, rest, hp, h⟩

end Sys2Proof.Machine
end

