-- ==== Sys2Proof/Laws/Gf2.lean ====
section
/-! SUPPORT. Small laws of the reduction step and its powers. -/

namespace Sys2Proof.Machine.Gf2

/-- A bit of the reduction step (40_gf2_arith.md R100). -/
theorem reduce_bit (v : Word) (i : Nat) :
    (reduce v).getLsbD i = (v.getLsbD (i + 1) ^^ (v.getLsbD 0 && gen.getLsbD i)) := by
  unfold reduce
  split <;> simp_all [Nat.add_comm]

theorem reduce_xor (a b : Word) : reduce (a ^^^ b) = reduce a ^^^ reduce b := by
  refine BitVec.eq_of_getLsbD_eq fun i _ => ?_
  simp only [BitVec.getLsbD_xor, reduce_bit]
  cases a.getLsbD 0 <;> cases b.getLsbD 0 <;> cases a.getLsbD (i + 1) <;>
    cases b.getLsbD (i + 1) <;> cases gen.getLsbD i <;> rfl

@[simp] theorem reduce_zero : reduce 0#32 = 0#32 := by decide

@[simp] theorem reduceN_zero (v : Word) : reduceN 0 v = v := rfl

theorem reduceN_succ (k : Nat) (v : Word) : reduceN (k + 1) v = reduce (reduceN k v) := rfl

@[simp] theorem reduceN_of_zero (k : Nat) : reduceN k 0#32 = 0#32 := by
  induction k with
  | zero => rfl
  | succ k ih => rw [reduceN_succ, ih, reduce_zero]

theorem reduceN_xor (k : Nat) (a b : Word) : reduceN k (a ^^^ b) = reduceN k a ^^^ reduceN k b := by
  induction k with
  | zero => rfl
  | succ k ih => rw [reduceN_succ, ih, reduce_xor, reduceN_succ, reduceN_succ]

theorem reduceN_add (j k : Nat) (v : Word) : reduceN (j + k) v = reduceN j (reduceN k v) := by
  induction j with
  | zero => simp
  | succ j ih => rw [Nat.succ_add, reduceN_succ, ih, reduceN_succ]

end Sys2Proof.Machine.Gf2
end

