-- ==== Sys2Proof/Laws/PerInstr.lean ====
section
/-! SUPPORT. Facts about every command as syntax, one lemma per constructor of Instr. -/

namespace Sys2Proof.Laws.RowOfEncoding

open Machine.Operands

/-- The command's encoding selects the command's row of the opcode map, which is a row of the
table (30_encoding.md R86). -/
def Statement (i : Instr) : Prop :=
  opcodeRow i ∈ opcodeRows ∧ encode i &&& (opcodeRow i).1 = (opcodeRow i).2

/-- Masking format B, K down to its opcode and reserved bits. -/
theorem mask_wordB (op b : Byte) : wordB op b &&& 0xFFFFFF00#32 = op ++ 0#24 := by
  refine BitVec.eq_of_getLsbD_eq fun i hi => ?_
  rw [BitVec.getLsbD_and, wordB, BitVec.getLsbD_append, BitVec.getLsbD_append,
    BitVec.getLsbD_append]
  interval_cases i <;> simp

theorem mask_wordC (op : Byte) (w : Nat) : wordC op w &&& 0xFF000000#32 = op ++ 0#24 := by
  refine BitVec.eq_of_getLsbD_eq fun i hi => ?_
  rw [BitVec.getLsbD_and, wordC, BitVec.getLsbD_append, BitVec.getLsbD_append]
  interval_cases i <;> simp

theorem mask_wordT (op : Byte) (sel : TableSel) (idx : Byte) :
    wordT op sel idx &&& 0xFFFFFE00#32 = op ++ 0#24 := by
  refine BitVec.eq_of_getLsbD_eq fun i hi => ?_
  rw [BitVec.getLsbD_and, wordT, BitVec.getLsbD_append, BitVec.getLsbD_append,
    BitVec.getLsbD_append, BitVec.getLsbD_append]
  interval_cases i <;> simp

theorem nop : Statement .nop := by unfold Statement; decide
theorem config (w : Nat) : Statement (.config w) :=
  ⟨by simp [opcodeRow, opcodeRows], (mask_wordC _ w).trans rfl⟩
theorem fill (b : Byte) : Statement (.fill b) :=
  ⟨by simp [opcodeRow, opcodeRows], (mask_wordB _ b).trans rfl⟩
theorem step (b : Byte) : Statement (.step b) :=
  ⟨by simp [opcodeRow, opcodeRows], (mask_wordB _ b).trans rfl⟩
theorem restart : Statement .restart := by unfold Statement; decide
theorem clrerr : Statement .clrerr := by unfold Statement; decide
theorem mul : Statement .mul := by unfold Statement; decide
theorem red (k : Nat) : Statement (.red k) :=
  ⟨by simp [opcodeRow, opcodeRows], (mask_wordB _ _).trans rfl⟩
theorem tblrd (sel : TableSel) (idx : Byte) : Statement (.tblrd sel idx) :=
  ⟨by simp [opcodeRow, opcodeRows], (mask_wordT _ sel idx).trans rfl⟩

end Sys2Proof.Laws.RowOfEncoding
end

