-- ==== Sys2Proof/Laws/Tables.lean ====
section
/-! SUPPORT. What the table builder computes, entry by entry: every entry is the sum of the seed
entries of its index's one bits. -/

namespace Sys2Proof.Machine

open Gf2

theorem buildRead_eq_entry (t : Table) (i : Byte) : buildRead t i.toNat = tableEntry t i := by
  simp [buildRead, tableEntry, i.isLt]

theorem buildRead_write (t : Table) {i : Nat} (j : Nat) (v : Word) (h : i < 256) :
    buildRead (buildWrite t i v) j = if j = i then v else buildRead t j := by
  unfold buildRead buildWrite
  simp only [Vector.toArray_setIfInBounds]
  by_cases hj : j < 256
  · by_cases hij : j = i
    · subst hij; simp [Array.getD, h]
    · simp [Array.getD, hj, hij, Ne.symm hij]
  · have : j ≠ i := by omega
    simp [Array.getD, hj, this]

/-- The table agrees with `f` at index `i`. -/
def AgreesAt (f : Nat → Word) (t : Table) (i : Nat) : Prop := buildRead t i = f i

/-- Writing a right value keeps every agreement and adds one. -/
theorem agreesAt_write {f : Nat → Word} {t : Table} {i j : Nat} {v : Word} (hi : i < 256)
    (hv : v = f i) (h : j = i ∨ AgreesAt f t j) : AgreesAt f (buildWrite t i v) j := by
  unfold AgreesAt
  rw [buildRead_write t j v hi]
  split
  · next hj => rw [hj, hv]
  · next hj => exact h.resolve_left hj

/-- The seeding loop: it agrees with `f` on the indices it visits, where `f` runs along them by
reduction steps, and keeps the agreements it finds. -/
theorem seedEntries_agrees {f : Nat → Word} (ks : List Nat) (v : Word) (t : Table)
    (hk : ∀ k ∈ ks, k < 256) (hf : ∀ n (hn : n < ks.length), f ks[n] = reduceN n v) {j : Nat}
    (h : j ∈ ks ∨ AgreesAt f t j) : AgreesAt f (seedEntries ks v t) j := by
  induction ks generalizing v t with
  | nil => simpa [seedEntries] using h
  | cons k ks ih =>
    have h0 : f k = v := hf 0 (by simp)
    refine ih _ _ (fun k' hk' => hk k' (by simp [hk'])) (fun n hn => ?_) ?_
    · have := hf (n + 1) (by simpa using hn)
      rw [List.getElem_cons_succ] at this
      rw [this, reduceN_add n 1 v]
      rfl
    · rcases h with h | h
      · rcases List.mem_cons.mp h with h | h
        · exact .inr (agreesAt_write (hk k (by simp)) h0.symm (.inl h))
        · exact .inl h
      · exact .inr (agreesAt_write (hk k (by simp)) h0.symm (.inr h))

/-- One closure pass: it agrees with a linear `f` on the indices it writes, where it agreed on those
it reads, and keeps the agreements it finds. -/
theorem closeBlock_agrees {f : Nat → Word} (hf : ∀ i j, f (i ^^^ j) = f i ^^^ f j) (i : Nat)
    (js : List Nat) (t : Table) (hb : ∀ j ∈ js, i ^^^ j < 256) (hi : AgreesAt f t i)
    (hj : ∀ j ∈ js, AgreesAt f t j) {l : Nat}
    (h : (∃ j ∈ js, l = i ^^^ j) ∨ AgreesAt f t l) : AgreesAt f (closeBlock i js t) l := by
  induction js generalizing t with
  | nil => simpa [closeBlock] using h
  | cons j js ih =>
    have hv : buildRead t i ^^^ buildRead t j = f (i ^^^ j) := by
      rw [hf, show buildRead t i = f i from hi, show buildRead t j = f j from hj j (by simp)]
    have hw : ∀ {l : Nat}, l = i ^^^ j ∨ AgreesAt f t l →
        AgreesAt f (buildWrite t (i ^^^ j) (buildRead t i ^^^ buildRead t j)) l :=
      fun hl => agreesAt_write (hb j (by simp)) hv hl
    refine ih _ (fun k hk => hb k (by simp [hk])) (hw (.inr hi))
      (fun k hk => hw (.inr (hj k (by simp [hk])))) ?_
    rcases h with ⟨k, hk, rfl⟩ | h
    · rcases List.mem_cons.mp hk with rfl | hk
      · exact .inr (hw (.inl rfl))
      · exact .inl ⟨k, hk, rfl⟩
    · exact .inr (hw (.inr h))

/-- The sum of the seed entries of an index's one bits: bit k stands for `reduce^(7−k)(u)`
(41_tables.md R131, R135). -/
def seedSum (u : Word) (i : Nat) : Word :=
  (List.range 8).foldl (fun c k => if i.testBit k then c ^^^ reduceN (7 - k) u else c) 0#32

theorem seedSum_eq (u : Word) (i : Nat) : seedSum u i =
    (if i.testBit 0 then reduceN 7 u else 0#32) ^^^ (if i.testBit 1 then reduceN 6 u else 0#32) ^^^
    (if i.testBit 2 then reduceN 5 u else 0#32) ^^^ (if i.testBit 3 then reduceN 4 u else 0#32) ^^^
    (if i.testBit 4 then reduceN 3 u else 0#32) ^^^ (if i.testBit 5 then reduceN 2 u else 0#32) ^^^
    (if i.testBit 6 then reduceN 1 u else 0#32) ^^^ (if i.testBit 7 then u else 0#32) := by
  have step : ∀ (b : Bool) (c v : Word), (if b then c ^^^ v else c) = c ^^^ (if b then v else 0#32) := by
    intro b c v; cases b <;> simp
  simp [seedSum, List.range, List.range.loop, step]

theorem seedSum_xor (u : Word) (i j : Nat) :
    seedSum u (i ^^^ j) = seedSum u i ^^^ seedSum u j := by
  have term : ∀ (k : Nat) (v : Word), (if (i ^^^ j).testBit k then v else 0#32) =
      (if i.testBit k then v else 0#32) ^^^ (if j.testBit k then v else 0#32) := by
    intro k v
    rw [Nat.testBit_xor]
    cases i.testBit k <;> cases j.testBit k <;> simp
  rw [seedSum_eq, seedSum_eq, seedSum_eq]
  simp only [term]
  ac_rfl

/-- A pass over block size `i`, with j in [1, i), extends agreement from below `i` and at `i` to
below `2 i`. -/
theorem closeBlock_extends {f : Nat → Word} (hf : ∀ i j, f (i ^^^ j) = f i ^^^ f j) (k : Nat)
    (hk : k < 8) (t : Table) (h : ∀ l, l ≤ 2 ^ k → AgreesAt f t l) {l : Nat}
    (hl : l < 2 ^ (k + 1) ∨ AgreesAt f t l) :
    AgreesAt f (closeBlock (2 ^ k) (List.range' 1 (2 ^ k - 1)) t) l := by
  have hadd : ∀ j, j < 2 ^ k → 2 ^ k ^^^ j = 2 ^ k + j := by
    intro j hj
    have hor := Nat.two_pow_add_eq_or_of_lt hj 1
    rw [Nat.mul_one] at hor
    rw [hor]
    refine Nat.eq_of_testBit_eq fun n => ?_
    rw [Nat.testBit_xor, Nat.testBit_or, Nat.testBit_two_pow]
    by_cases hn : k = n
    · subst hn; simp [Nat.testBit_lt_two_pow hj]
    · simp [hn]
  have hpow : 2 ^ (k + 1) ≤ 2 ^ 8 := Nat.pow_le_pow_right (by omega) (by omega)
  have hsucc : 2 ^ (k + 1) = 2 * 2 ^ k := by rw [Nat.pow_succ]; omega
  have hmem : ∀ j, j ∈ List.range' 1 (2 ^ k - 1) ↔ 1 ≤ j ∧ j < 2 ^ k := by
    intro j; have := Nat.two_pow_pos k; simp; omega
  refine closeBlock_agrees hf _ _ _ (fun j hj => ?_) (h _ (Nat.le_refl _))
    (fun j hj => h j (by have := (hmem j).mp hj; omega)) ?_
  · have := (hmem j).mp hj
    rw [hadd j this.2]; omega
  · rcases hl with hl | hl
    · by_cases hle : l ≤ 2 ^ k
      · exact .inr (h l hle)
      · refine .inl ⟨l - 2 ^ k, (hmem _).mpr (by omega), ?_⟩
        rw [hadd _ (by omega)]; omega
    · exact .inr hl

/-- The whole builder (41_tables.md R131): each entry is the sum of the seed entries of its index's
one bits. -/
theorem buildTable_entry (u : Word) (i : Byte) : tableEntry (buildTable u) i = seedSum u i.toNat := by
  rw [← buildRead_eq_entry]
  have hf := seedSum_xor u
  have hseed : ∀ l, l = 0 ∨ l ∈ [128, 64, 32, 16, 8, 4, 2, 1] → AgreesAt (seedSum u)
      (seedEntries [128, 64, 32, 16, 8, 4, 2, 1] u (Vector.replicate 256 0#32)) l := by
    intro l hl
    refine seedEntries_agrees _ _ _ (by decide) ?_ ?_
    · intro n hn
      have : n < 8 := by simpa using hn
      interval_cases n <;> rw [seedSum_eq] <;> simp [Nat.testBit]
    · rcases hl with rfl | hl
      · refine .inr ?_
        unfold AgreesAt
        rw [seedSum_eq]
        simp [buildRead, Array.getD]
      · exact .inl hl
  have grow : ∀ (n k : Nat) (t : Table), n + k = 8 →
      (∀ l, l < 2 ^ k ∨ l ∈ [1, 2, 4, 8, 16, 32, 64, 128] → AgreesAt (seedSum u) t l) →
      ∀ l < 256, AgreesAt (seedSum u) (closeBlocks ((List.range' k n).map (2 ^ ·)) t) l := by
    intro n
    induction n with
    | zero =>
      intro k t hk ht l hl
      obtain rfl : k = 8 := by omega
      exact ht l (.inl hl)
    | succ n ih =>
      intro k t hk ht l hl
      have hpow : 2 ^ k ∈ [1, 2, 4, 8, 16, 32, 64, 128] := by
        have : k < 8 := by omega
        interval_cases k <;> simp
      refine ih (k + 1) _ (by omega) (fun l' hl' => ?_) l hl
      refine closeBlock_extends hf k (by omega) t (fun m hm => ?_) ?_
      · rcases Nat.lt_or_eq_of_le hm with hm | rfl
        · exact ht m (.inl hm)
        · exact ht _ (.inr hpow)
      · rcases hl' with hl' | hl'
        · exact .inl hl'
        · exact .inr (ht l' (.inr hl'))
  exact grow 7 1 _ rfl (fun l hl => hseed l (by
    rcases hl with hl | hl
    · have : l = 0 ∨ l = 1 := by omega
      rcases this with rfl | rfl <;> simp
    · right; simp at hl ⊢; omega)) i.toNat i.isLt

end Sys2Proof.Machine
end

