-- ==== Sys2Proof/Tests/Slice0.lean ====
section
/-! SUPPORT. Tests of the model against the worked values of spec/ (95_test_vectors.md and the
examples of the command rules), and a witness for the hypotheses of each statement. -/

namespace Sys2Proof.Tests

open Machine Machine.Gf2 Claims

/-! ### Helpers -/

/-- The state a result holds, or `State.reset` where it holds none. -/
def stateOf : Result → State
  | .next t => t
  | .fault _ => State.reset
  | .refused _ => State.reset

/-- The state one step after the host issues the command word `v`. -/
def after (v : Nat) (s : State) : State := stateOf (step (s.withFetchWord 32 v))

/-- After `config 4` (42_engine.md R160, example). -/
def fillState : State := (State.reset.loadConstants 4).startStream

/-- W = 1, phase FILL, nothing loaded. -/
def smallState : State := (State.reset.loadConstants 1).startStream

/-- W = 4, phase RUN, window "1234" (95_test_vectors.md P1, row 5). -/
def runState : State :=
  { State.reset.loadConstants 4 with
    phase := .run
    acc := 0xBAA73FBF#32
    win := [(0, 0x31#8), (1, 0x32#8), (2, 0x33#8), (3, 0x34#8)] }

/-- W = 4, phase FILL, "123" loaded (95_test_vectors.md P1, row 4). -/
def lastFillState : State :=
  { State.reset.loadConstants 4 with
    phase := .fill
    acc := 0x7709BAC0#32
    pos := 3#24
    win := [(0, 0x31#8), (1, 0x32#8), (2, 0x33#8)] }

/-- A standing E_NOT_CONFIGURED: ST = 0x00000034 (95_test_vectors.md P4, row 2). -/
def errState : State := { State.reset with err := true, errcode := .notConfigured }

/-! ### Well-formedness -/

theorem test_config_operand_too_wide : (Instr.config (2 ^ 24)).wellFormed = false := by decide
theorem test_red_operand_too_wide : (Instr.red (2 ^ 8)).wellFormed = false := by decide

/-! ### Decoding, words written out from 30_encoding.md R81, R86 -/

theorem test_decode_nop : decode 0b00000000_000000000000000000000000#32 = .ok .nop := by decide
theorem test_decode_config :
    decode 0b00000001_000000000001000000000001#32 = .ok (.config 4097) := by decide
theorem test_decode_fill :
    decode 0b00000010_0000000000000000_01000001#32 = .ok (.fill 0x41#8) := by decide
theorem test_decode_step :
    decode 0b00000011_0000000000000000_00110101#32 = .ok (.step 0x35#8) := by decide
theorem test_decode_restart :
    decode 0b00000100_000000000000000000000000#32 = .ok .restart := by decide
theorem test_decode_clrerr :
    decode 0b00000101_000000000000000000000000#32 = .ok .clrerr := by decide
theorem test_decode_mul :
    decode 0b00000110_000000000000000000000000#32 = .ok .mul := by decide
theorem test_decode_red :
    decode 0b00000111_0000000000000000_00100000#32 = .ok (.red 32) := by decide
theorem test_decode_tblrd_std :
    decode 0b00001000_000000000000000_0_10001010#32 = .ok (.tblrd .std 0x8A#8) := by decide
theorem test_decode_tblrd_prefix :
    decode 0b00001000_000000000000000_1_00110001#32 = .ok (.tblrd .prefixTable 0x31#8) := by decide
/-- V-A22, V-B21, V-S9, V-T16, V-M13, V-C2, V-R3. -/
theorem test_decode_reserved_bits :
    [0x07000100#32, 0x02000141#32, 0x03000100#32, 0x08000200#32, 0x06000001#32, 0x00000001#32,
      0x04000001#32].all (fun v => decode v == .error .reservedBits) = true := by decide
/-- V-E1, V-E2. -/
theorem test_decode_reserved_opcode :
    [0x09000000#32, 0xFF000000#32].all (fun v => decode v == .error .reservedOpcode) = true := by
  decide

/-! ### Arithmetic and tables -/

/-- V-A2, V-A5, V-A9. -/
theorem test_reduce : reduce 0x00000001#32 = 0xEDB88320#32 ∧ reduce 0xFFFFFFFF#32 = 0x92477CDF#32 ∧
    reduce 0xDEADBEEF#32 = 0x82EE5C57#32 := by decide
/-- V-M1. -/
theorem test_gf2mul : gf2mul 0x12345678#32 0x9ABCDEF0#32 = 0xAA4F5316#32 := by decide
/-- V-X7: x^72, by the square-and-multiply loop. -/
theorem test_xpowSm : xpowSm 72 = 0x1EB014D8#32 := by decide +kernel
/-- V-B6. -/
theorem test_byteUpdate : byteUpdate Rom.std 0x12345678#32 0x9A#8 = 0x4E16B702#32 := by
  decide +kernel
/-- The checks 41_tables.md R136 gives for a transcription. -/
theorem test_rom_checks : Rom.words.foldl (· ^^^ ·) 0#32 = 0#32 ∧
    Rom.words.foldl (· + ·) 0#32 = 0xFFFFFF80#32 := by decide +kernel
/-- 41_tables.md R141, W = 4. -/
theorem test_prefix_table : tableEntry (buildTable (prefixSeed (xpow 32))) 0x31#8 = 0x9C419136#32 ∧
    tableEntry (buildTable (prefixSeed (xpow 32))) 0xFF#8 = 0xCA64C78C#32 := by
  rw [buildTable_entry, buildTable_entry]; decide +kernel
/-- S3: the check string. -/
theorem test_crc32 : crc32 [0x31#8, 0x32#8, 0x33#8, 0x34#8, 0x35#8, 0x36#8, 0x37#8, 0x38#8, 0x39#8] =
    0xCBF43926#32 := by decide +kernel

/-! ### Commands, one step each -/

/-- V-C1. -/
theorem test_nop : after 0x00000000 errState = errState := rfl
/-- V-C2. -/
theorem test_nop_word_is_only_zero : (after 0x00000001 State.reset).statusWord = 0x00000014#32 := by
  decide
/-- V-X4. -/
theorem test_config_constants : (after 0x01000004 State.reset).xpow = 0xEDB88320#32 ∧
    (after 0x01000004 State.reset).crcxor = 0x2144DF1C#32 ∧
    (after 0x01000004 State.reset).statusWord = 0x00000001#32 := by decide +kernel
/-- V-X17, V-E9: one above WMAX is refused and everything is kept. -/
theorem test_config_too_large : (after 0x01001001 runState).statusWord = 0x00000026#32 ∧
    (after 0x01001001 runState).acc = 0xBAA73FBF#32 := by decide
/-- V-B10. -/
theorem test_fill : (after 0x02000031 fillState).acc = 0x51DE003A#32 ∧
    (after 0x02000031 fillState).pos = 1#24 ∧ (after 0x02000031 fillState).win = [(0, 0x31#8)] := by
  decide
/-- V-B13: the last byte of the first window. -/
theorem test_fill_last : (after 0x02000034 lastFillState).acc = 0xBAA73FBF#32 ∧
    (after 0x02000034 lastFillState).pos = 0#24 ∧
    (after 0x02000034 lastFillState).statusWord = 0x00000002#32 := by decide
/-- V-S1. -/
theorem test_step : (runState.stepped 0x35#8).acc = 0x91965C37#32 ∧
    (runState.stepped 0x35#8).crcOut = 0xB0D2832B#32 ∧
    (runState.stepped 0x35#8).lastOut = 0x9BE3E0A3#32 ∧
    (runState.stepped 0x35#8).win.read 0 = some 0x35#8 := by
  have hacc : (runState.stepped 0x35#8).acc = byteUpdate Rom.std 0xBAA73FBF#32 0x35#8 ^^^
      tableEntry (buildTable (prefixSeed (xpow 32))) 0x31#8 := rfl
  have hout : ∀ s : State, s.crcOut = s.acc ^^^ s.crcxor := fun _ => rfl
  rw [hout, hacc, buildTable_entry]
  decide +kernel
/-- V-S8: STEP in phase FILL. -/
theorem test_step_in_fill : (after 0x03000041 fillState).statusWord = 0x00000045#32 := by decide
/-- V-R4. -/
theorem test_restart : (after 0x04000000 lastFillState).acc = 0#32 ∧
    (after 0x04000000 lastFillState).pos = 0#24 ∧
    (after 0x04000000 lastFillState).wsize = 4#24 := by decide
/-- V-R2. -/
theorem test_restart_unconfigured : (after 0x04000000 State.reset).statusWord = 0x00000034#32 := by
  decide
/-- V-C4. -/
theorem test_clrerr : (after 0x05000000 errState).statusWord = 0#32 := by decide
/-- V-C5: a malformed CLRERR keeps the first error. -/
theorem test_clrerr_malformed : (after 0x05000001 errState).statusWord = 0x00000034#32 := by decide
/-- V-M3. -/
theorem test_mul : (after 0x06000000 { State.reset with
    opa := 0xEDB88320#32, opb := 0xEDB88320#32 }).auxres = 0xB1E6B092#32 := by decide
/-- V-A18. -/
theorem test_red : (after 0x07000008 { State.reset with opa := 0xFFFFFFFF#32 }).auxres =
    0x2DFD1072#32 := by decide
/-- V-T8. -/
theorem test_tblrd_std : (after 0x0800008A State.reset).auxres = 0x0D6D6A3E#32 := by decide
/-- V-T15. -/
theorem test_tblrd_prefix_unconfigured :
    (after 0x08000180 State.reset).statusWord = 0x00000034#32 := by decide
/-- V-E8: a legal command still runs while ERR = 1. -/
theorem test_config_with_standing_error : (after 0x01000004 errState).statusWord = 0x00000035#32 := by
  decide
/-- V-H2, V-H3, V-H6. -/
theorem test_reads : hostRead 0x30#8 runState = 0xEDB88320#32 ∧
    hostRead 0x34#8 runState = 0x00001000#32 ∧ hostRead 0xFC#8 runState = 0#32 := by decide
/-- V-H4: a write to ACC is ignored. -/
theorem test_write_read_only :
    step (runState.withPending [.write 32 0x10#8 0xDEADBEEF#32]) = .next runState := rfl

/-! ### Witnesses: states that meet the hypotheses of the statements -/

theorem fillState_inv : fillState.Inv where
  params := by decide
  rom := rfl
  winForm := rfl
  winSlots := by intro c hc; cases hc
  errRecord := by decide
  phaseInv := ⟨⟨by decide, by decide, by decide, rfl, rfl, rfl⟩, fun i hi => absurd hi (by
    show ¬ i < 0
    omega), rfl⟩

theorem smallState_inv : smallState.Inv where
  params := by decide
  rom := rfl
  winForm := rfl
  winSlots := by intro c hc; cases hc
  errRecord := by decide
  phaseInv := ⟨⟨by decide, by decide, by decide, rfl, rfl, rfl⟩, fun i hi => absurd hi (by
    show ¬ i < 0
    omega), rfl⟩

theorem lastFillState_inv : lastFillState.Inv where
  params := by decide
  rom := rfl
  winForm := by decide
  winSlots := by decide
  errRecord := by decide
  phaseInv := ⟨⟨by decide, by decide, by decide, rfl, rfl, rfl⟩, by
    show ∀ i < 3, (lastFillState.win.read i).isSome = true
    decide, by decide +kernel⟩

theorem runState_inv : runState.Inv where
  params := by decide
  rom := rfl
  winForm := by decide
  winSlots := by decide
  errRecord := by decide
  phaseInv := ⟨⟨by decide, by decide, by decide, rfl, rfl, rfl⟩, by
    show ∀ i < 4, (runState.win.read i).isSome = true
    decide, by decide +kernel⟩

theorem witness_DecodeOfEncodeIsTheCommand : (Instr.config 16777215).wellFormed = true ∧
    (Instr.red 255).wellFormed = true ∧ (Instr.tblrd .prefixTable 0xFF#8).wellFormed = true := by
  decide
theorem witness_EncodeOfDecodeIsTheWord : decode 0x01FFFFFF#32 = .ok (.config 16777215) := by decide
theorem witness_DecodeFollowsTheOpcodeMap :
    decode 0x080001FF#32 = .ok (.tblrd .prefixTable 0xFF#8) := by decide
theorem witness_SquareAndMultiplyIsXpow : 1 ≤ 8 ∧ Nat.log2 8 ≤ 3 := by decide
theorem witness_BuiltTablesAreSeededAndLinear : 0 < 8 ∧ 7 < 8 := by decide
theorem witness_PrefixTableIsDepartingContribution : [0x31#8].length = 1 := rfl
theorem witness_UncomplementedCrcIsRemainder : [0x31#8].length = [0x32#8].length := rfl
theorem witness_MultiplierIsPolynomialProduct :
    (List.range 32).reverse.Perm (List.range 32) := List.reverse_perm _
theorem witness_ReduceIsMultiplicationByX : 0 < 31 ∧ 30 < 31 := by decide

theorem witness_IllegalWordsRaiseIllegal :
    (0x09 ≤ (0x09000000#32 >>> 24).toNat ∧ 0x09 ≤ (0xFF000000#32 >>> 24).toNat) ∧
    ((0x00000001#32 >>> 24).toNat ∈ [0x00, 0x04, 0x05, 0x06] ∧
      0x00000001#32 &&& 0x00FFFFFF#32 ≠ 0#32) ∧
    ((0x06800000#32 >>> 24).toNat ∈ [0x00, 0x04, 0x05, 0x06] ∧
      0x06800000#32 &&& 0x00FFFFFF#32 ≠ 0#32) ∧
    ((0x02000100#32 >>> 24).toNat ∈ [0x02, 0x03, 0x07] ∧
      0x02000100#32 &&& 0x00FFFF00#32 ≠ 0#32) ∧
    ((0x07800000#32 >>> 24).toNat ∈ [0x02, 0x03, 0x07] ∧
      0x07800000#32 &&& 0x00FFFF00#32 ≠ 0#32) ∧
    ((0x08000200#32 >>> 24).toNat = 0x08 ∧ 0x08000200#32 &&& 0x00FFFE00#32 ≠ 0#32) ∧
    (runState.withPending [commandMove 0x09000000#32]).pending = commandMove 0x09000000#32 :: [] ∧
    decode 0#32 = .ok .nop :=
  ⟨by decide, by decide, by decide, by decide, by decide, by decide, rfl, by decide⟩

theorem witness_StepRunsTheDecodedCommand :
    (fillState.withPending [commandMove 0x02000031#32]).pending =
      commandMove 0x02000031#32 :: [] ∧
    decode 0x02000031#32 = .ok (.fill 0x31#8) ∧ decode 0x09000000#32 = .error .reservedOpcode ∧
    fillState.pending = [] ∧ 0x02000031 < 2 ^ 32 ∧
    decodeTableWord 32 0x02000031 = some (.fill 0x31#8) := by decide

theorem witness_RunsComposeInIssueOrder :
    runMoves [.write 32 0x24#8 5#32] fillState = .next (fillState.setOpa 5#32) := rfl

theorem witness_HostReadReturnsTheRegister : ∀ off ∈ [0x00#8, 0x04#8, 0x34#8, 0x38#8, 0xFC#8],
    (runState.withPending [.read 32 off]).pending = .read 32 off :: [] ∧ off.toNat % 4 = 0 := by
  decide

theorem witness_HostWriteReachesOnlyCmdOpaOpb :
    (∀ off ∈ [0x00#8, 0x24#8, 0x28#8, 0x04#8, 0xFC#8],
      (runState.withPending [.write 32 off 1#32]).pending = .write 32 off 1#32 :: [] ∧
      off.toNat % 4 = 0) ∧
    0x04#8 ≠ 0x00#8 ∧ 0x04#8 ≠ 0x24#8 ∧ 0x04#8 ≠ 0x28#8 := by decide

theorem witness_OddAccessesHaveNoStep :
    (runState.withPending [.read 16 0x00#8]).pending = .read 16 0x00#8 :: [] ∧ 16 ≠ 32 ∧
    (runState.withPending [.write 32 0x02#8 1#32]).pending = .write 32 0x02#8 1#32 :: [] ∧
    (0x02#8).toNat % 4 ≠ 0 ∧
    step (runState.withPending [.read 16 0x00#8]) = .refused .accessWidth ∧
    step (runState.withPending [.write 32 0x02#8 1#32]) = .refused .accessMisaligned :=
  ⟨rfl, by decide, rfl, by decide, rfl, rfl⟩

theorem witness_LegalityFollowsThePhaseTable :
    phaseTable runState.cfg.wmax (.fill 0x41#8) runState.phase ≠ .none ∧
    phaseTable runState.cfg.wmax (.config 4096) runState.phase = .none ∧
    phaseTable runState.cfg.wmax (.config 4097) runState.phase ≠ .none ∧
    phaseTable runState.cfg.wmax (.config 0) runState.phase ≠ .none ∧
    phaseTable runState.cfg.wmax (.step 0x41#8) runState.phase = .none ∧
    runState.pos.toNat < runState.cfg.wmax.toNat ∧ Instr.mul ≠ .clrerr ∧
    decode 0x00000001#32 = .error .reservedBits := by decide

theorem witness_FirstErrorIsKeptUntilCleared :
    fillState.err = false ∧ errState.err = true ∧ step errState = .next errState ∧
    (errState.withPending [commandMove 0x05000000#32]).err = true ∧
    step (errState.withPending [commandMove 0x05000000#32]) = .next errState.clearError :=
  ⟨rfl, rfl, rfl, rfl, rfl⟩

theorem witness_CommandsRunAlikeWhileErrIsSet :
    Instr.restart ≠ .clrerr ∧ exec .restart errState = .next errState ∧ errState.err = true ∧
    phaseTable errState.cfg.wmax .restart errState.phase ≠ .none :=
  ⟨by decide, rfl, rfl, by decide⟩

theorem witness_StatusFieldsAreLaidOut : runState.Inv := runState_inv

theorem witness_NopAndClrerrComplete : fillState.err = false ∧ fillState.errcode = .none ∧
    HasReservedOne 0x00#8 0x00FFFFFF#32 0x00000001#32 ∧
    HasReservedOne 0x05#8 0x00FFFFFF#32 0x05800000#32 := by
  unfold HasReservedOne; decide

theorem witness_MulWritesTheProduct : fillState.opa = 0#32 ∧ fillState.opb = 0#32 ∧
    (fillState.setOpa 0x80000000#32).opa = 0x80000000#32 ∧
    HasReservedOne 0x06#8 0x00FFFFFF#32 0x06000001#32 := by
  unfold HasReservedOne; decide

theorem witness_RedWritesThePowerMultiple : fillState.opa = 0#32 ∧ 0 < 256 ∧ 255 < 256 ∧
    HasReservedOne 0x07#8 0x00FFFF00#32 0x07000100#32 := by
  unfold HasReservedOne; decide

theorem witness_TblrdWritesTheEntry : State.reset.phase = .unconfigured ∧
    runState.phase ≠ .unconfigured ∧ fillState.phase ≠ .unconfigured ∧ runState.Inv ∧
    (∃ t, runState.prefixTable = some t) ∧ HasReservedOne 0x08#8 0x00FFFE00#32 0x08000200#32 :=
  ⟨rfl, by decide, by decide, runState_inv, ⟨_, rfl⟩, by unfold HasReservedOne; decide⟩

theorem witness_ConfigLoadsTheConstants :
    (1 ≤ 1 ∧ 1 ≤ runState.cfg.wmax.toNat) ∧ (1 ≤ 4096 ∧ 4096 ≤ runState.cfg.wmax.toNat) ∧
    (0 = 0 ∨ runState.cfg.wmax.toNat < 0) ∧ runState.cfg.wmax.toNat < 4097 ∧
    16777215 < 2 ^ 24 := by decide

theorem witness_FillAppendsTheByte :
    (fillState.phase = .fill ∧ fillState.pos.toNat < fillState.cfg.wmax.toNat ∧
      fillState.pos.toNat + 1 ≠ fillState.wsize.toNat) ∧
    (lastFillState.phase = .fill ∧ lastFillState.pos.toNat < lastFillState.cfg.wmax.toNat ∧
      lastFillState.pos.toNat + 1 = lastFillState.wsize.toNat) ∧
    fillState.wsize ≠ 0#24 ∧ lastFillState.wsize ≠ 0#24 ∧
    State.reset.phase = .unconfigured ∧ runState.phase = .run ∧
    HasReservedOne 0x02#8 0x00FFFF00#32 0x02000141#32 := by
  unfold HasReservedOne; decide

theorem witness_StepSlidesTheWindow :
    (runState.phase = .run ∧ runState.pos.toNat < runState.cfg.wmax.toNat ∧
      runState.win.read 0 = some 0x31#8 ∧ ∃ t, runState.prefixTable = some t) ∧
    runState.wsize ≠ 0#24 ∧ State.reset.phase = .unconfigured ∧ fillState.phase = .fill ∧
    HasReservedOne 0x03#8 0x00FFFF00#32 0x03000100#32 :=
  ⟨⟨rfl, by decide, by decide, _, rfl⟩, by decide, rfl, rfl, by unfold HasReservedOne; decide⟩

theorem witness_RestartStartsANewStream : runState.Inv ∧ runState.phase ≠ .unconfigured ∧
    State.reset.phase = .unconfigured ∧ HasReservedOne 0x04#8 0x00FFFFFF#32 0x04000001#32 :=
  ⟨runState_inv, by decide, rfl, by unfold HasReservedOne; decide⟩

theorem witness_RepeatedConfigIsIdempotent : 1 ≤ 4 ∧ 4 ≤ State.reset.cfg.wmax.toNat ∧
    exec (.config 4) State.reset = .next fillState :=
  ⟨by decide, by decide, rfl⟩

theorem witness_CommandsFaultOnlyAtAbsentSlots :
    (4096 ≤ ({ fillState with pos := 4096#24 } : State).pos.toNat ∧
      ({ fillState with pos := 4096#24 } : State).phase = .fill ∧
      exec (.fill 0x41#8) { fillState with pos := 4096#24 } = .fault .windowSlotAbsent) ∧
    exec (.step 0x41#8) { runState with pos := 4096#24 } = .fault .windowSlotAbsent :=
  ⟨⟨by decide, rfl, rfl⟩, rfl⟩

theorem witness_OnlyFillAndStepWriteTheWindow :
    exec (.fill 0x31#8) fillState = .next (fillState.filled 0x31#8) ∧
    exec .nop fillState = .next fillState ∧ ¬ WritesWindow .nop ∧ 1 ≠ fillState.pos.toNat ∧
    fillState.phase = .fill ∧ runState.phase = .run ∧
    exec (.step 0x35#8) runState = .next (runState.stepped 0x35#8) :=
  ⟨rfl, rfl, id, by decide, rfl, rfl, rfl⟩

theorem witness_EachRegisterHasItsWriters : exec .mul runState =
      .next (runState.setAuxres (gf2mul runState.opa runState.opb)) ∧
    (∀ w, Instr.mul ≠ .config w) ∧ (∀ b, Instr.mul ≠ .fill b) ∧ (∀ b, Instr.mul ≠ .step b) ∧
    Instr.mul ≠ .restart ∧ exec .nop runState = .next runState ∧ Instr.nop ≠ .mul ∧
    (∀ k, Instr.nop ≠ .red k) ∧ (∀ sel idx, Instr.nop ≠ .tblrd sel idx) := by
  refine ⟨rfl, ?_, ?_, ?_, ?_, rfl, ?_, ?_, ?_⟩ <;> intros <;> simp

theorem witness_PositionCyclesThroughTheWindow :
    (fillState.pos.toNat < fillState.wsize.toNat ∧ fillState.phase = .fill ∧
      exec (.fill 0x31#8) fillState = .next (fillState.filled 0x31#8)) ∧
    (lastFillState.pos.toNat < lastFillState.wsize.toNat) ∧ runState.phase = .run ∧
    exec (.step 0x35#8) runState = .next (runState.stepped 0x35#8) :=
  ⟨⟨by decide, rfl, rfl⟩, by decide, rfl, rfl⟩

theorem witness_ResetLeavesTheResetValues :
    (runState.withPending [.reset]).pending = .reset :: [] ∧
    step (runState.withPending [.reset]) = .next runState.afterReset := ⟨rfl, rfl⟩

theorem witness_PhasesChangeOnlyAsTheSpecSays :
    (runState.phase ≠ .unconfigured ∧ runState.afterReset.phase = .unconfigured ∧
      step (runState.withPending [.reset]) = .next runState.afterReset) ∧
    lastFillState.phase ≠ .run ∧ (lastFillState.filled 0x34#8).phase = .run ∧
    step (lastFillState.withPending [commandMove 0x02000034#32]) =
      .next (lastFillState.filled 0x34#8) :=
  ⟨⟨by decide, rfl, rfl⟩, by decide, by decide, rfl⟩

theorem witness_RomNeverChanges : step fillState = .next fillState ∧
    runMoves [.reset] (State.powerOn Config.reference) = .next State.reset.afterReset := ⟨rfl, rfl⟩

theorem witness_InvariantHoldsAtReset : Config.reference.wf = true ∧
    ({ wmax := 1#24 } : Config).wf = true := by decide

theorem witness_StepKeepsTheInvariant : (runState.Inv ∧ step runState = .next runState) ∧
    fillState.Inv ∧ lastFillState.Inv := ⟨⟨runState_inv, rfl⟩, fillState_inv, lastFillState_inv⟩

theorem witness_InvariantStatesNeverFault : runState.Inv := runState_inv

theorem witness_ObservedChecksumIsCrc32OfTheWindow : runState.Inv ∧ runState.phase = .run :=
  ⟨runState_inv, rfl⟩

theorem witness_StepReportsTheOldWindowAndSlides : runState.Inv ∧ runState.phase = .run :=
  ⟨runState_inv, rfl⟩

theorem witness_FillsInitializeTheWindow : runState.Inv ∧ runState.phase ≠ .unconfigured ∧
    [0x31#8, 0x32#8, 0x33#8, 0x34#8].length = runState.wsize.toNat ∧ [0x31#8].length = 1 ∧
    1 ≤ 1 ∧ 1 ≤ runState.cfg.wmax.toNat := ⟨runState_inv, by decide, rfl, rfl, by decide, by decide⟩

theorem witness_DriverReadsOneChecksumPerWindow : runState.Inv ∧ 1 ≤ 1 ∧
    1 ≤ runState.cfg.wmax.toNat ∧ 1 ≤ [0x31#8].length :=
  ⟨runState_inv, by decide, by decide, by decide⟩

theorem witness_ShortStreamStaysInFill : runState.Inv ∧ 1 ≤ 4096 ∧
    4096 ≤ runState.cfg.wmax.toNat ∧ [0x31#8].length < 4096 :=
  ⟨runState_inv, by decide, by decide, by decide⟩

theorem witness_OldStreamNeverReachesTheNewChecksum : (runState.Inv ∧ lastFillState.Inv ∧
    runState.phase ≠ .unconfigured ∧ lastFillState.phase ≠ .unconfigured ∧
    runState.wsize = lastFillState.wsize ∧
    [0x61#8, 0x62#8, 0x63#8, 0x64#8].length = runState.wsize.toNat ∧ [0x65#8] ≠ []) ∧
    (smallState.Inv ∧ runState.wsize ≠ smallState.wsize ∧
      (1 ≤ runState.cfg.wmax.toNat ∧ 1 ≤ smallState.cfg.wmax.toNat ∧ [0x61#8].length = 1) ∧
      (4096 ≤ runState.cfg.wmax.toNat ∧ 4096 ≤ smallState.cfg.wmax.toNat ∧
        (List.replicate 4096 0x61#8).length = 4096)) :=
  ⟨⟨runState_inv, lastFillState_inv, by decide, by decide, rfl, rfl, by decide⟩,
    smallState_inv, by decide, by decide, by decide, by decide, List.length_replicate⟩

theorem witness_UnspecifiedContentsAreNeverObserved : runState.Inv ∧
    step runState = .next runState := ⟨runState_inv, rfl⟩

theorem witness_AssemblerEmitsTheListedWords : (∀ b ∈ [0x00, 0xFF], b ≤ 0xFF) ∧
    (∃ b ∈ [0x00, 0x100], 0xFF < b) := by
  refine ⟨by decide, 0x100, by decide, by decide⟩

theorem witness_ByteLanesAreLittleEndian : 3 < 4 ∧ 7 < 8 := by decide

end Sys2Proof.Tests
end

section
/-! SUPPORT. The commands case by case, what each command leaves alone of the moves still pending,
and the accesses and runs of the host port (20_memory.md R52 to R56, R67). -/

namespace Sys2Proof.Machine

/-! ### The commands that can fail, case by case -/

section

variable {s : State}

theorem execConfig_of_out_of_range {w : Nat} (h : w = 0 ∨ s.cfg.wmax.toNat < w) :
    execConfig w s = .next (s.recordError .badW) := if_pos h

theorem execConfig_of_in_range {w : Nat} (hpos : 1 ≤ w) (hmax : w ≤ s.cfg.wmax.toNat) :
    execConfig w s = .next (s.loadConstants w).startStream := if_neg (by omega)

theorem execFill_of_unconfigured (b : Byte) (h : s.phase = .unconfigured) :
    execFill b s = .next (s.recordError .notConfigured) := by simp [execFill, h, raise]

theorem execFill_of_run (b : Byte) (h : s.phase = .run) :
    execFill b s = .next (s.recordError .phase) := by simp [execFill, h, raise]

theorem execFill_of_slot (b : Byte) (h : s.phase = .fill) (hlt : s.pos.toNat < s.cfg.wmax.toNat) :
    execFill b s = .next (s.filled b) := by
  simp [execFill, h, s.writeWin_of_lt b hlt, State.filled]

theorem execFill_of_no_slot (b : Byte) (h : s.phase = .fill)
    (hge : s.cfg.wmax.toNat ≤ s.pos.toNat) : execFill b s = .fault .windowSlotAbsent := by
  simp [execFill, h, s.writeWin_of_ge b hge]

theorem execStep_of_unconfigured (b : Byte) (h : s.phase = .unconfigured) :
    execStep b s = .next (s.recordError .notConfigured) := by simp [execStep, h, raise]

theorem execStep_of_fill (b : Byte) (h : s.phase = .fill) :
    execStep b s = .next (s.recordError .phase) := by simp [execStep, h, raise]

theorem execStep_of_slot (b : Byte) (h : s.phase = .run) (hlt : s.pos.toNat < s.cfg.wmax.toNat) :
    execStep b s = .next (s.stepped b) := by
  simp [execStep, h, s.readWin_of_lt hlt, s.writeWin_of_lt b hlt, State.stepped]

theorem execStep_of_no_slot (b : Byte) (h : s.phase = .run)
    (hge : s.cfg.wmax.toNat ≤ s.pos.toNat) : execStep b s = .fault .windowSlotAbsent := by
  simp [execStep, h, s.readWin_of_ge hge]

theorem execRestart_of_unconfigured (h : s.phase = .unconfigured) :
    execRestart s = .next (s.recordError .notConfigured) := by simp [execRestart, h, raise]

theorem execRestart_of_configured (h : s.phase ≠ .unconfigured) :
    execRestart s = .next s.startStream := by
  cases hp : s.phase with
  | unconfigured => exact absurd hp h
  | fill => simp [execRestart, hp]
  | run => simp [execRestart, hp]

theorem execTblrd_prefixTable_of_unconfigured (idx : Byte) (h : s.phase = .unconfigured) :
    execTblrd .prefixTable idx s = .next (s.recordError .notConfigured) := by
  simp [execTblrd, h, raise]

theorem execTblrd_prefixTable_of_configured (idx : Byte) (h : s.phase ≠ .unconfigured) :
    execTblrd .prefixTable idx s = .next (s.setAuxres (s.prefixEntry idx)) := by
  cases hp : s.phase with
  | unconfigured => exact absurd hp h
  | fill => simp [execTblrd, hp]
  | run => simp [execTblrd, hp]

end

/-! ### Outcomes in sequence -/

/-- The outcome `r` followed by `f` on its next state; a stop stays a stop. -/
def andThen (r : Result) (f : State → Result) : Result :=
  match r with
  | .next t => f t
  | .fault e => .fault e
  | .refused e => .refused e

@[simp] theorem andThen_next (t : State) (f : State → Result) : andThen (.next t) f = f t := rfl

theorem andThen_eq_next {r : Result} {f : State → Result} {u : State}
    (h : andThen r f = .next u) : ∃ t, r = .next t ∧ f t = .next u := by
  cases r with
  | next t => exact ⟨t, rfl, h⟩
  | fault e => cases h
  | refused e => cases h

/-- The outcome `r` with `ms` as the moves pending in its next state. -/
def leaving (ms : List HostMove) (r : Result) : Result :=
  andThen r fun t => .next (t.withPending ms)

@[simp] theorem leaving_next (ms : List HostMove) (t : State) :
    leaving ms (.next t) = .next (t.withPending ms) := rfl
@[simp] theorem leaving_fault (ms : List HostMove) (e : Fault) :
    leaving ms (.fault e) = .fault e := rfl
@[simp] theorem leaving_refused (ms : List HostMove) (e : Refusal) :
    leaving ms (.refused e) = .refused e := rfl

/-! ### No access sees the moves still pending -/

section

variable (s : State) (ms : List HostMove)

@[simp] theorem withPending_recordError (c : ErrCode) :
    (s.withPending ms).recordError c = (s.recordError c).withPending ms := by
  cases h : s.err with
  | true => rw [State.recordError_of_err s c h, State.recordError_of_err (s.withPending ms) c h]
  | false =>
    rw [State.recordError_of_no_err s c h, State.recordError_of_no_err (s.withPending ms) c h]
    rfl

theorem execConfig_withPending (w : Nat) :
    execConfig w (s.withPending ms) = leaving ms (execConfig w s) := by
  by_cases hw : w = 0 ∨ s.cfg.wmax.toNat < w
  · rw [execConfig_of_out_of_range hw, execConfig_of_out_of_range (s := s.withPending ms) hw]; simp
  · have hpos : 1 ≤ w := by omega
    have hmax : w ≤ s.cfg.wmax.toNat := by omega
    rw [execConfig_of_in_range hpos hmax, execConfig_of_in_range (s := s.withPending ms) hpos hmax]
    rfl

theorem execFill_withPending (b : Byte) :
    execFill b (s.withPending ms) = leaving ms (execFill b s) := by
  have hp' : (s.withPending ms).phase = s.phase := rfl
  cases hp : s.phase with
  | unconfigured =>
    rw [execFill_of_unconfigured b hp, execFill_of_unconfigured b (hp'.trans hp)]; simp
  | run => rw [execFill_of_run b hp, execFill_of_run b (hp'.trans hp)]; simp
  | fill =>
    rcases Nat.lt_or_ge s.pos.toNat s.cfg.wmax.toNat with h | h
    · rw [execFill_of_slot b hp h, execFill_of_slot b (hp'.trans hp) h]; rfl
    · rw [execFill_of_no_slot b hp h, execFill_of_no_slot b (hp'.trans hp) h]; rfl

theorem execStep_withPending (b : Byte) :
    execStep b (s.withPending ms) = leaving ms (execStep b s) := by
  have hp' : (s.withPending ms).phase = s.phase := rfl
  cases hp : s.phase with
  | unconfigured =>
    rw [execStep_of_unconfigured b hp, execStep_of_unconfigured b (hp'.trans hp)]; simp
  | fill => rw [execStep_of_fill b hp, execStep_of_fill b (hp'.trans hp)]; simp
  | run =>
    rcases Nat.lt_or_ge s.pos.toNat s.cfg.wmax.toNat with h | h
    · rw [execStep_of_slot b hp h, execStep_of_slot b (hp'.trans hp) h]; rfl
    · rw [execStep_of_no_slot b hp h, execStep_of_no_slot b (hp'.trans hp) h]; rfl

theorem execRestart_withPending : execRestart (s.withPending ms) = leaving ms (execRestart s) := by
  by_cases hp : s.phase = .unconfigured
  · rw [execRestart_of_unconfigured hp, execRestart_of_unconfigured (s := s.withPending ms) hp]
    simp
  · rw [execRestart_of_configured hp, execRestart_of_configured (s := s.withPending ms) hp]; rfl

theorem execTblrd_withPending (sel : TableSel) (idx : Byte) :
    execTblrd sel idx (s.withPending ms) = leaving ms (execTblrd sel idx s) := by
  cases sel with
  | std => rfl
  | prefixTable =>
    by_cases hp : s.phase = .unconfigured
    · rw [execTblrd_prefixTable_of_unconfigured idx hp,
        execTblrd_prefixTable_of_unconfigured (s := s.withPending ms) idx hp]
      simp
    · rw [execTblrd_prefixTable_of_configured idx hp,
        execTblrd_prefixTable_of_configured (s := s.withPending ms) idx hp]
      rfl

theorem exec_withPending (i : Instr) : exec i (s.withPending ms) = leaving ms (exec i s) := by
  cases i with
  | nop => rfl
  | config w => exact execConfig_withPending s ms w
  | fill b => exact execFill_withPending s ms b
  | step b => exact execStep_withPending s ms b
  | restart => exact execRestart_withPending s ms
  | clrerr => rfl
  | mul => rfl
  | red k => rfl
  | tblrd sel idx => exact execTblrd_withPending s ms sel idx

theorem executeCommand_withPending (v : Word) :
    executeCommand v (s.withPending ms) = leaving ms (executeCommand v s) := by
  cases hd : decode v with
  | ok i => simp [executeCommand, hd, exec_withPending]
  | error e => simp [executeCommand, hd, raise]

end

/-! ### Register reads and writes -/

theorem zext_eq_ofNat {n : Nat} (v : BitVec n) : Word.zext v = BitVec.ofNat 32 v.toNat :=
  (BitVec.ofNat_toNat 32 v).symm

/-- The STATUS word as the sum of its fields at their places (20_memory.md R52). -/
theorem statusWord_eq (s : State) : s.statusWord =
    BitVec.ofNat 32 (16 * s.errcode.bits.toNat + 4 * s.err.toNat + s.phase.bits.toNat) := by
  have fields : ∀ (e : BitVec 4) (b : Bool) (p : BitVec 2),
      Word.zext (e ++ 0#1 ++ BitVec.ofBool b ++ p) =
        BitVec.ofNat 32 (16 * e.toNat + 4 * b.toNat + p.toNat) := by decide
  exact fields _ _ _

/-- The register map at every offset, reserved ones included (20_memory.md R52, R56). -/
theorem hostRead_eq_lookup (off : BitVec 8) (s : State) :
    hostRead off s = ((Claims.registerMap s).lookup off.toNat).getD 0#32 := by
  rw [Claims.registerMap, ← statusWord_eq, ← zext_eq_ofNat, ← zext_eq_ofNat,
    ← zext_eq_ofNat]
  unfold hostRead
  split
  case h_15 =>
    rw [List.lookup_eq_none_iff.mpr]
    · rfl
    · simp_all
  all_goals simp [List.lookup, *, State.crcOut, Gf2.gen]

theorem hostWrite_of_ignored {off : BitVec 8} (v : Word) (s : State) (hcmd : off ≠ 0x00#8)
    (hopa : off ≠ 0x24#8) (hopb : off ≠ 0x28#8) : hostWrite off v s = .next s := by
  unfold hostWrite
  split
  · next h => exact absurd (BitVec.eq_of_toNat_eq h) hcmd
  · next h => exact absurd (BitVec.eq_of_toNat_eq h) hopa
  · next h => exact absurd (BitVec.eq_of_toNat_eq h) hopb
  · rfl

theorem hostWrite_withPending (off : BitVec 8) (v : Word) (s : State) (ms : List HostMove) :
    hostWrite off v (s.withPending ms) = leaving ms (hostWrite off v s) := by
  by_cases hcmd : off = 0x00#8
  · subst hcmd; exact executeCommand_withPending s ms v
  by_cases hopa : off = 0x24#8
  · subst hopa; rfl
  by_cases hopb : off = 0x28#8
  · subst hopb; rfl
  · simp [hostWrite_of_ignored v _ hcmd hopa hopb]

/-! ### The service of a move -/

theorem accessRefusal_eq_none_iff (width : Nat) (off : BitVec 8) :
    accessRefusal width off = none ↔ width = 32 ∧ off.toNat % 4 = 0 := by
  unfold accessRefusal
  split
  · next h => simp [h]
  · next h => split <;> simp_all

theorem accessRefusal_aligned {off : BitVec 8} (h : off.toNat % 4 = 0) :
    accessRefusal 32 off = none := (accessRefusal_eq_none_iff 32 off).mpr ⟨rfl, h⟩

/-- An access is refused exactly when it is of another width or misaligned (20_memory.md R54,
R55). -/
theorem accessRefusal_eq_some_iff (width : Nat) (off : BitVec 8) :
    (∃ r, accessRefusal width off = some r) ↔ width ≠ 32 ∨ off.toNat % 4 ≠ 0 := by
  rw [← Option.ne_none_iff_exists', Ne, accessRefusal_eq_none_iff, not_and_or]

theorem serve_read_of_aligned {off : BitVec 8} (s : State) (h : off.toNat % 4 = 0) :
    serve (.read 32 off) s = .next (s.logRead (hostRead off s)) := by
  simp [serve, accessRefusal_aligned h]

theorem serve_write_of_aligned {off : BitVec 8} (v : Word) (s : State) (h : off.toNat % 4 = 0) :
    serve (.write 32 off v) s = hostWrite off v s := by
  simp [serve, accessRefusal_aligned h]

theorem serve_withPending (m : HostMove) (s : State) (ms : List HostMove) :
    serve m (s.withPending ms) = leaving ms (serve m s) := by
  cases m with
  | read width off =>
    cases h : accessRefusal width off with
    | none => simp [serve, h]; rfl
    | some r => simp [serve, h]
  | write width off v =>
    cases h : accessRefusal width off with
    | none => simp [serve, h, hostWrite_withPending]
    | some r => simp [serve, h]
  | reset => rfl

theorem step_of_pending {s : State} {m : HostMove} {rest : List HostMove}
    (h : s.pending = m :: rest) : step s = serve m (s.withPending rest) := by
  simp [step, serveNext, h]

/-! ### Only the host port refuses -/

theorem execConfig_ne_refused (w : Nat) (s : State) (r : Refusal) :
    execConfig w s ≠ .refused r := by
  by_cases hw : w = 0 ∨ s.cfg.wmax.toNat < w
  · simp [execConfig_of_out_of_range hw]
  · simp [execConfig_of_in_range (s := s) (w := w) (by omega) (by omega)]

theorem execFill_ne_refused (b : Byte) (s : State) (r : Refusal) : execFill b s ≠ .refused r := by
  cases hp : s.phase with
  | unconfigured => simp [execFill_of_unconfigured b hp]
  | run => simp [execFill_of_run b hp]
  | fill =>
    rcases Nat.lt_or_ge s.pos.toNat s.cfg.wmax.toNat with h | h
    · simp [execFill_of_slot b hp h]
    · simp [execFill_of_no_slot b hp h]

theorem execStep_ne_refused (b : Byte) (s : State) (r : Refusal) : execStep b s ≠ .refused r := by
  cases hp : s.phase with
  | unconfigured => simp [execStep_of_unconfigured b hp]
  | fill => simp [execStep_of_fill b hp]
  | run =>
    rcases Nat.lt_or_ge s.pos.toNat s.cfg.wmax.toNat with h | h
    · simp [execStep_of_slot b hp h]
    · simp [execStep_of_no_slot b hp h]

theorem execRestart_ne_refused (s : State) (r : Refusal) : execRestart s ≠ .refused r := by
  by_cases hp : s.phase = .unconfigured
  · simp [execRestart_of_unconfigured hp]
  · simp [execRestart_of_configured hp]

theorem execTblrd_ne_refused (sel : TableSel) (idx : Byte) (s : State) (r : Refusal) :
    execTblrd sel idx s ≠ .refused r := by
  cases sel with
  | std => simp [execTblrd]
  | prefixTable =>
    by_cases hp : s.phase = .unconfigured
    · simp [execTblrd_prefixTable_of_unconfigured idx hp]
    · simp [execTblrd_prefixTable_of_configured idx hp]

theorem exec_ne_refused (i : Instr) (s : State) (r : Refusal) : exec i s ≠ .refused r := by
  cases i with
  | nop => exact nofun
  | config w => exact execConfig_ne_refused w s r
  | fill b => exact execFill_ne_refused b s r
  | step b => exact execStep_ne_refused b s r
  | restart => exact execRestart_ne_refused s r
  | clrerr => exact nofun
  | mul => exact nofun
  | red k => exact nofun
  | tblrd sel idx => exact execTblrd_ne_refused sel idx s r

theorem executeCommand_ne_refused (v : Word) (s : State) (r : Refusal) :
    executeCommand v s ≠ .refused r := by
  cases hd : decode v with
  | ok i => simpa [executeCommand, hd] using exec_ne_refused i s r
  | error e => simp [executeCommand, hd, raise]

theorem hostWrite_ne_refused (off : BitVec 8) (v : Word) (s : State) (r : Refusal) :
    hostWrite off v s ≠ .refused r := by
  by_cases hcmd : off = 0x00#8
  · subst hcmd; exact executeCommand_ne_refused v s r
  by_cases hopa : off = 0x24#8
  · subst hopa; simp [hostWrite]
  by_cases hopb : off = 0x28#8
  · subst hopb; simp [hostWrite]
  · simp [hostWrite_of_ignored v s hcmd hopa hopb]

/-- What a refused service is: the counterpart of `serve_next`. -/
theorem serve_refused {m : HostMove} {s : State} {r : Refusal} (h : serve m s = .refused r) :
    ∃ width off, (m = .read width off ∨ ∃ v, m = .write width off v) ∧
      accessRefusal width off = some r := by
  cases m with
  | read width off =>
    cases ha : accessRefusal width off with
    | none => simp [serve, ha] at h
    | some r' => exact ⟨width, off, .inl rfl, by simpa [serve, ha] using h⟩
  | write width off v =>
    cases ha : accessRefusal width off with
    | none => simp [serve, ha, hostWrite_ne_refused] at h
    | some r' => exact ⟨width, off, .inr ⟨v, rfl⟩, by simpa [serve, ha] using h⟩
  | reset => cases h

theorem step_refused {s : State} {r : Refusal} (h : step s = .refused r) :
    ∃ m rest, s.pending = m :: rest ∧ serve m (s.withPending rest) = .refused r := by
  cases hp : s.pending with
  | nil => simp [step, serveNext, hp] at h
  | cons m rest => exact ⟨m, rest, rfl, step_of_pending hp ▸ h⟩

/-! ### Runs -/

theorem run_succ (k : Nat) (s : core.State) :
    core.run (k + 1) s = andThen (core.step s) (core.run k) := by
  rw [Host.Core.run]
  cases core.step s <;> rfl

theorem runMoves_nil (s : State) : Claims.runMoves [] s = .next (s.withPending []) := rfl

/-- A run serves its first move and then runs the others on the state that leaves. -/
theorem runMoves_cons (m : HostMove) (ms : List HostMove) (s : State) :
    Claims.runMoves (m :: ms) s = andThen (serve m s) (Claims.runMoves ms) := by
  have hstep : step (s.withPending (m :: ms)) = leaving ms (serve m s) :=
    (step_of_pending rfl).trans (serve_withPending m s ms)
  calc Claims.runMoves (m :: ms) s
    _ = andThen (step (s.withPending (m :: ms))) (core.run ms.length) := run_succ _ _
    _ = andThen (leaving ms (serve m s)) (core.run ms.length) := by rw [hstep]
    _ = andThen (serve m s) (Claims.runMoves ms) := by cases serve m s <;> rfl

theorem runMoves_append {ms : List HostMove} (ns : List HostMove) {s t : State}
    (h : Claims.runMoves ms s = .next t) :
    Claims.runMoves (ms ++ ns) s = Claims.runMoves ns t := by
  induction ms generalizing s with
  | nil =>
    obtain rfl := Host.Outcome.next.inj h
    rfl
  | cons m ms ih =>
    rw [runMoves_cons] at h
    obtain ⟨u, hu, hrest⟩ := andThen_eq_next h
    rw [List.cons_append, runMoves_cons, hu, andThen_next, ih hrest]

/-- A run that completes has served every move it was sent. -/
theorem runMoves_pending {ms : List HostMove} {s t : State}
    (h : Claims.runMoves ms s = .next t) : t.pending = [] := by
  induction ms generalizing s with
  | nil =>
    obtain rfl := Host.Outcome.next.inj h
    rfl
  | cons m ms ih =>
    rw [runMoves_cons] at h
    obtain ⟨u, -, hrest⟩ := andThen_eq_next h
    exact ih hrest

theorem runMoves_singleton (m : HostMove) (s : State) :
    Claims.runMoves [m] s = serve m (s.withPending []) := by
  rw [runMoves_cons, serve_withPending]
  rfl

end Sys2Proof.Machine

namespace Sys2Proof.Proofs

open Machine Claims

/-- Settles O18: a run is unfolded move by move, since no service sees the moves still pending. -/
theorem runsComposeInIssueOrder : Obligations.RunsComposeInIssueOrder :=
  ⟨runMoves_singleton, fun _ ns _ _ h => ⟨runMoves_pending h, runMoves_append ns h⟩⟩

/-- Settles O19: the read's word is the register map's, at mapped and reserved offsets alike. -/
theorem hostReadReturnsTheRegister : Obligations.HostReadReturnsTheRegister := by
  intro s off rest hp hal
  rw [step_of_pending hp, serve_read_of_aligned _ hal, hostRead_eq_lookup]
  rfl

/-- Settles O20: an aligned write is `hostWrite`, taken offset by offset. -/
theorem hostWriteReachesOnlyCmdOpaOpb : Obligations.HostWriteReachesOnlyCmdOpaOpb := by
  intro s off v rest hp hal
  rw [step_of_pending hp, serve_write_of_aligned v _ hal]
  refine ⟨?_, ?_, ?_, fun hcmd hopa hopb => hostWrite_of_ignored v _ hcmd hopa hopb⟩
  · rintro rfl; rfl
  · rintro rfl; rfl
  · rintro rfl; rfl

/-- Settles O21: only the port's own check refuses, and it refuses just those accesses. -/
theorem oddAccessesHaveNoStep : Obligations.OddAccessesHaveNoStep := by
  constructor
  · intro s width off v rest hp hodd
    obtain ⟨r, hr⟩ := (accessRefusal_eq_some_iff width off).mpr hodd
    refine ⟨r, ?_⟩
    rcases hp with hp | hp
    · rw [step_of_pending hp]; simp [serve, hr]
    · rw [step_of_pending hp]; simp [serve, hr]
  · intro s r h
    obtain ⟨m, rest, hp, hserve⟩ := step_refused h
    obtain ⟨width, off, hm, hr⟩ := serve_refused hserve
    refine ⟨width, off, rest, ?_, (accessRefusal_eq_some_iff width off).mp ⟨r, hr⟩⟩
    rcases hm with rfl | ⟨v, rfl⟩
    · exact .inl hp
    · exact .inr ⟨v, hp⟩

end Sys2Proof.Proofs
end

section
/-! SUPPORT. The opcode map and the decoder (30_encoding.md R81 to R90): when a word selects a row,
what decoding it can give, and the step on an illegal word. -/

namespace Sys2Proof

open Machine.Operands

/-! ### The parts of a command word -/

theorem opc_append_arg (v : Word) : opc v ++ arg v = v :=
  BitVec.extractLsb'_append_extractLsb' (w := 8) (len := 24)

theorem opc_and (v w : Word) : opc (v &&& w) = opc v &&& opc w := BitVec.extractLsb'_and

theorem arg_and (v w : Word) : arg (v &&& w) = arg v &&& arg w := BitVec.extractLsb'_and

theorem word_eq_iff (v w : Word) : v = w ↔ opc v = opc w ∧ arg v = arg w := by
  constructor
  · rintro rfl
    exact ⟨rfl, rfl⟩
  · rintro ⟨hopc, harg⟩
    rw [← opc_append_arg v, ← opc_append_arg w, hopc, harg]

theorem opc_toNat (v : Word) : (opc v).toNat = (v >>> 24).toNat := by
  rw [opc, BitVec.extractLsb'_toNat, BitVec.toNat_ushiftRight, Nat.shiftRight_eq_div_pow]
  omega

/-- A mask of ones over the high part only tests the high part. -/
theorem append_and_highMask_eq_zero_iff {m n : Nat} (x : BitVec m) (y : BitVec n) :
    (x ++ y) &&& (BitVec.allOnes m ++ 0#n) = 0#(m + n) ↔ x = 0#m := by
  rw [BitVec.and_append, BitVec.and_allOnes, BitVec.and_zero, ← BitVec.zero_append_zero,
    BitVec.append_left_inj]

/-- The mask of formats B and K leaves out BYTE, or K (30_encoding.md R81). -/
theorem reservedByteForm_eq_zero_iff (v : Word) :
    reservedByteForm v = 0#16 ↔ arg v &&& arg 0xFFFFFF00#32 = 0#24 := by
  have harg : arg v = reservedByteForm v ++ byteField v :=
    (BitVec.extractLsb'_append_extractLsb'_eq_extractLsb' (len₁ := 8) (len₂ := 16) rfl).symm
  rw [harg]
  exact (append_and_highMask_eq_zero_iff _ _).symm

/-- The mask of format T leaves out SEL and IDX (30_encoding.md R81). -/
theorem reservedTableForm_eq_zero_iff (v : Word) :
    reservedTableForm v = 0#15 ↔ arg v &&& arg 0xFFFFFE00#32 = 0#24 := by
  have harg : arg v = reservedTableForm v ++ v.extractLsb' 0 9 :=
    (BitVec.extractLsb'_append_extractLsb'_eq_extractLsb' (len₁ := 9) (len₂ := 15) rfl).symm
  rw [harg]
  exact (append_and_highMask_eq_zero_iff _ _).symm

/-- The mask of format N leaves out nothing of ARG (30_encoding.md R81). -/
theorem arg_eq_zero_iff (v : Word) : arg v = 0#24 ↔ arg v &&& arg 0xFFFFFFFF#32 = 0#24 := by
  rw [show arg 0xFFFFFFFF#32 = BitVec.allOnes 24 from rfl, BitVec.and_allOnes]

/-- The mask of format C leaves out all of ARG: it has no reserved bit (30_encoding.md R81). -/
theorem arg_and_formatC_mask (v : Word) : arg v &&& arg 0xFF000000#32 = 0#24 := BitVec.and_zero

/-! ### The rows of the opcode map -/

theorem opcodeRow_mem (i : Instr) : opcodeRow i ∈ opcodeRows := by
  cases i <;> simp [opcodeRow, opcodeRows]

theorem exists_opcodeRow_of_mem {row : Word × Word} (h : row ∈ opcodeRows) :
    ∃ i, opcodeRow i = row := by
  simp only [opcodeRows, List.mem_cons, List.not_mem_nil, or_false] at h
  rcases h with rfl | rfl | rfl | rfl | rfl | rfl | rfl | rfl | rfl
  exacts [⟨.nop, rfl⟩, ⟨.config 0, rfl⟩, ⟨.fill 0#8, rfl⟩, ⟨.step 0#8, rfl⟩, ⟨.restart, rfl⟩,
    ⟨.clrerr, rfl⟩, ⟨.mul, rfl⟩, ⟨.red 0, rfl⟩, ⟨.tblrd .std 0#8, rfl⟩]

/-- No two rows have the same opcode. -/
theorem opcodes_nodup : (opcodeRows.map fun row => opc row.2).Nodup := by decide

theorem opcodeRow_eq_of_opc_eq {i j : Instr} (h : opc (opcodeRow i).2 = opc (opcodeRow j).2) :
    opcodeRow i = opcodeRow j :=
  List.inj_on_of_nodup_map opcodes_nodup (opcodeRow_mem i) (opcodeRow_mem j) h

/-- Every mask holds the whole opcode, and the match word is that opcode and no more. -/
theorem opcodeRow_parts (i : Instr) :
    opc (opcodeRow i).1 = BitVec.allOnes 8 ∧ arg (opcodeRow i).2 = 0#24 := by
  cases i <;> simp [opcodeRow, opc, arg]

theorem opc_opcodeRow_le (i : Instr) : (opc (opcodeRow i).2).toNat ≤ 0x08 := by
  cases i <;> simp [opcodeRow, opc]

/-- A word selects a command's row when it has the row's opcode and zeros in the reserved bits,
which are the ones of the mask below the opcode (30_encoding.md R86, R88). -/
theorem selectsRow_opcodeRow_iff (v : Word) (i : Instr) :
    selectsRow v (opcodeRow i) = true ↔
      opc v = opc (opcodeRow i).2 ∧ arg v &&& arg (opcodeRow i).1 = 0#24 := by
  obtain ⟨hmask, hmatch⟩ := opcodeRow_parts i
  rw [selectsRow, beq_iff_eq, word_eq_iff, opc_and, arg_and, hmask, hmatch, BitVec.and_allOnes]

theorem opc_eq_of_selectsRow {v : Word} {row : Word × Word} (hmem : row ∈ opcodeRows)
    (h : selectsRow v row = true) : opc v = opc row.2 := by
  obtain ⟨i, rfl⟩ := exists_opcodeRow_of_mem hmem
  exact ((selectsRow_opcodeRow_iff v i).mp h).1

/-- The rows a word selects all have its opcode, and no opcode stands in two rows. -/
theorem countP_selectsRow_le_one (v : Word) : opcodeRows.countP (selectsRow v) ≤ 1 := by
  calc opcodeRows.countP (selectsRow v)
    _ ≤ opcodeRows.countP ((· == opc v) ∘ fun row => opc row.2) :=
        List.countP_mono_left fun _ hmem h =>
          beq_iff_eq.mpr (opc_eq_of_selectsRow hmem h).symm
    _ = (opcodeRows.map fun row => opc row.2).count (opc v) := List.countP_map.symm
    _ ≤ 1 := List.nodup_iff_count_le_one.mp opcodes_nodup _

/-! ### What decoding can give -/

/-- The test of a format's reserved bits is the test of the row. -/
theorem ifZero_eq_ite_selectsRow {v : Word} {i : Instr} {n : Nat} {reserved : BitVec n}
    (hopc : opc v = opc (opcodeRow i).2)
    (hres : reserved = 0#n ↔ arg v &&& arg (opcodeRow i).1 = 0#24) :
    ifZero reserved i =
      if selectsRow v (opcodeRow i) then .ok i else .error .reservedBits :=
  if_congr (hres.trans ((selectsRow_opcodeRow_iff v i).trans (and_iff_right hopc)).symm) rfl rfl

/-- The decoder's case tree (30_encoding.md R90) read by rows: an opcode in no row is reserved, and
under the opcode of a row the word decodes when it selects that row. -/
theorem decode_cases (v : Word) :
    (0x09 ≤ (opc v).toNat ∧ decode v = .error .reservedOpcode) ∨
    (∃ i, opc v = opc (opcodeRow i).2 ∧ decode v =
      if selectsRow v (opcodeRow i) then .ok i else .error .reservedBits) := by
  unfold decode
  split
  case h_1 h =>
    have hopc : opc v = opc 0x00000000#32 := BitVec.eq_of_toNat_eq h
    exact .inr ⟨.nop, hopc, ifZero_eq_ite_selectsRow hopc (arg_eq_zero_iff v)⟩
  case h_2 h =>
    have hopc : opc v = opc 0x01000000#32 := BitVec.eq_of_toNat_eq h
    have hsel : selectsRow v (opcodeRow (.config (wimm v))) = true :=
      (selectsRow_opcodeRow_iff v _).mpr ⟨hopc, arg_and_formatC_mask v⟩
    exact .inr ⟨.config (wimm v), hopc, (if_pos hsel).symm⟩
  case h_3 h =>
    have hopc : opc v = opc 0x02000000#32 := BitVec.eq_of_toNat_eq h
    exact .inr ⟨.fill _, hopc, ifZero_eq_ite_selectsRow hopc (reservedByteForm_eq_zero_iff v)⟩
  case h_4 h =>
    have hopc : opc v = opc 0x03000000#32 := BitVec.eq_of_toNat_eq h
    exact .inr ⟨.step _, hopc, ifZero_eq_ite_selectsRow hopc (reservedByteForm_eq_zero_iff v)⟩
  case h_5 h =>
    have hopc : opc v = opc 0x04000000#32 := BitVec.eq_of_toNat_eq h
    exact .inr ⟨.restart, hopc, ifZero_eq_ite_selectsRow hopc (arg_eq_zero_iff v)⟩
  case h_6 h =>
    have hopc : opc v = opc 0x05000000#32 := BitVec.eq_of_toNat_eq h
    exact .inr ⟨.clrerr, hopc, ifZero_eq_ite_selectsRow hopc (arg_eq_zero_iff v)⟩
  case h_7 h =>
    have hopc : opc v = opc 0x06000000#32 := BitVec.eq_of_toNat_eq h
    exact .inr ⟨.mul, hopc, ifZero_eq_ite_selectsRow hopc (arg_eq_zero_iff v)⟩
  case h_8 h =>
    have hopc : opc v = opc 0x07000000#32 := BitVec.eq_of_toNat_eq h
    exact .inr ⟨.red _, hopc, ifZero_eq_ite_selectsRow hopc (reservedByteForm_eq_zero_iff v)⟩
  case h_9 h =>
    have hopc : opc v = opc 0x08000000#32 := BitVec.eq_of_toNat_eq h
    exact .inr ⟨.tblrd _ _, hopc, ifZero_eq_ite_selectsRow hopc (reservedTableForm_eq_zero_iff v)⟩
  case h_10 => exact .inl ⟨by grind, rfl⟩

/-- Under the opcode of a command's row, decoding is the test of that row. -/
theorem decode_of_opc {v : Word} {i : Instr} (hopc : opc v = opc (opcodeRow i).2) :
    ∃ j, decode v =
      if selectsRow v (opcodeRow i) then .ok j else .error .reservedBits := by
  rcases decode_cases v with ⟨hge, -⟩ | ⟨j, hj, hdec⟩
  · have hle := opc_opcodeRow_le i
    rw [← hopc] at hle
    omega
  · exact ⟨j, opcodeRow_eq_of_opc_eq (hj.symm.trans hopc) ▸ hdec⟩

theorem selectsRow_of_decode {v : Word} {i : Instr} (h : decode v = .ok i) :
    selectsRow v (opcodeRow i) = true := by
  rcases decode_cases v with ⟨-, hdec⟩ | ⟨j, -, hdec⟩
  · simp [hdec] at h
  · by_cases hsel : selectsRow v (opcodeRow j) = true
    · rw [hdec, if_pos hsel] at h
      exact Except.ok.inj h ▸ hsel
    · simp [hdec, hsel] at h

theorem exists_decode_of_selectsRow {v : Word} {i : Instr}
    (h : selectsRow v (opcodeRow i) = true) : ∃ j, decode v = .ok j := by
  obtain ⟨j, hdec⟩ := decode_of_opc ((selectsRow_opcodeRow_iff v i).mp h).1
  exact ⟨j, hdec.trans (if_pos h)⟩

/-- 30_encoding.md R87. -/
theorem decode_of_reserved_opcode {v : Word} (h : 0x09 ≤ (opc v).toNat) :
    decode v = .error .reservedOpcode := by
  rcases decode_cases v with ⟨-, hdec⟩ | ⟨i, hopc, -⟩
  · exact hdec
  · have hle := opc_opcodeRow_le i
    rw [← hopc] at hle
    omega

/-- 30_encoding.md R88: under the opcode of `i`, a one in a reserved bit of its format. -/
theorem decode_of_reserved_one {v : Word} (i : Instr) (hopc : opc v = opc (opcodeRow i).2)
    (hone : v &&& (0#8 ++ arg (opcodeRow i).1) ≠ 0#32) : decode v = .error .reservedBits := by
  obtain ⟨j, hdec⟩ := decode_of_opc hopc
  rw [hdec, if_neg]
  intro hsel
  obtain ⟨-, hzero⟩ := (selectsRow_opcodeRow_iff v i).mp hsel
  apply hone
  rw [← opc_append_arg v, BitVec.and_append, BitVec.and_zero, hzero, BitVec.zero_append_zero]

theorem eq_zero_of_decode_nop {v : Word} (h : decode v = .ok .nop) : v = 0x00000000#32 := by
  obtain ⟨hopc, hzero⟩ := (selectsRow_opcodeRow_iff v .nop).mp (selectsRow_of_decode h)
  exact (word_eq_iff v 0#32).mpr ⟨hopc, (arg_eq_zero_iff v).mpr hzero⟩

/-! ### The step on a command word -/

namespace Machine

theorem step_of_command {s : State} {v : Word} {rest : List HostMove}
    (hp : s.pending = commandMove v :: rest) :
    step s = executeCommand v (s.withPending rest) := by
  rw [step_of_pending hp, commandMove, serve_write_of_aligned v _ rfl]
  rfl

theorem executeCommand_of_error {v : Word} {e : DecodeError} (h : decode v = .error e)
    (s : State) : executeCommand v s = .next (s.recordError .illegal) := by
  simp [executeCommand, h, raise]

theorem step_of_decode_error {s : State} {v : Word} {rest : List HostMove} {e : DecodeError}
    (hp : s.pending = commandMove v :: rest) (h : decode v = .error e) :
    step s = .next ((s.withPending rest).recordError .illegal) :=
  (step_of_command hp).trans (executeCommand_of_error h _)

end Machine

/-- A one in a reserved bit, format by format: N, then B and K, then T (30_encoding.md R81, R88). -/
theorem decode_of_reserved_one_in_format {v : Word}
    (h : (v >>> 24).toNat ∈ [0x00, 0x04, 0x05, 0x06] ∧ v &&& 0x00FFFFFF#32 ≠ 0#32 ∨
      (v >>> 24).toNat ∈ [0x02, 0x03, 0x07] ∧ v &&& 0x00FFFF00#32 ≠ 0#32 ∨
      (v >>> 24).toNat = 0x08 ∧ v &&& 0x00FFFE00#32 ≠ 0#32) :
    decode v = .error .reservedBits := by
  have hopc {op : Byte} (hop : (v >>> 24).toNat = op.toNat) : opc v = op :=
    BitVec.eq_of_toNat_eq ((opc_toNat v).trans hop)
  simp only [List.mem_cons, List.not_mem_nil, or_false] at h
  rcases h with ⟨hop | hop | hop | hop, hone⟩ | ⟨hop | hop | hop, hone⟩ | ⟨hop, hone⟩
  · exact decode_of_reserved_one .nop (hopc hop) hone
  · exact decode_of_reserved_one .restart (hopc hop) hone
  · exact decode_of_reserved_one .clrerr (hopc hop) hone
  · exact decode_of_reserved_one .mul (hopc hop) hone
  · exact decode_of_reserved_one (.fill 0#8) (hopc hop) hone
  · exact decode_of_reserved_one (.step 0#8) (hopc hop) hone
  · exact decode_of_reserved_one (.red 0) (hopc hop) hone
  · exact decode_of_reserved_one (.tblrd .std 0#8) (hopc hop) hone

end Sys2Proof

namespace Sys2Proof.Proofs

open Machine Claims

/-- Settles O14: decoding is the test of the one row that has the word's opcode. -/
theorem decodeFollowsTheOpcodeMap : Obligations.DecodeFollowsTheOpcodeMap := by
  refine ⟨countP_selectsRow_le_one, fun v => ⟨?_, ?_⟩,
    fun v i h => ⟨opcodeRow_mem i, selectsRow_of_decode h⟩⟩
  · rintro ⟨i, h⟩
    exact ⟨opcodeRow i, opcodeRow_mem i, selectsRow_of_decode h⟩
  · rintro ⟨row, hmem, hsel⟩
    obtain ⟨i, rfl⟩ := exists_opcodeRow_of_mem hmem
    exact exists_decode_of_selectsRow hsel

/-- Settles O16: such a word decodes to an error, and the step then records E_ILLEGAL. -/
theorem illegalWordsRaiseIllegal : Obligations.IllegalWordsRaiseIllegal := by
  refine ⟨fun v s rest hop hp => ?_, fun v s rest hone hp => ?_, fun v => eq_zero_of_decode_nop⟩
  · exact step_of_decode_error hp (decode_of_reserved_opcode ((opc_toNat v).symm ▸ hop))
  · exact step_of_decode_error hp (decode_of_reserved_one_in_format hone)

end Sys2Proof.Proofs
end

section
/-! SUPPORT. The arithmetic of 40_gf2_arith.md over the polynomials modulo P (00_scope.md R11, R12):
each word has a residue class, no two words have the same one, and the unit's operations are the
ring's. -/

namespace Sys2Proof.Machine.Gf2

/-! ### The reduction step and its inverse, bit by bit -/

theorem reduce_bit_31 (v : Word) : (reduce v).getLsbD 31 = v.getLsbD 0 := by
  rw [reduce_bit, BitVec.getLsbD_of_ge v _ (by decide), Bool.false_xor,
    show gen.getLsbD 31 = true from rfl, Bool.and_true]

theorem unreduce_bit_0 (u : Word) : (unreduce u).getLsbD 0 = u.getLsbD 31 := by
  unfold unreduce
  cases u.getLsbD 31 <;> simp

theorem unreduce_bit_succ (u : Word) {i : ℕ} (hi : i < 31) :
    (unreduce u).getLsbD (i + 1) = (u.getLsbD i ^^ (u.getLsbD 31 && gen.getLsbD i)) := by
  have hlt : i + 1 < 32 := by omega
  unfold unreduce
  cases u.getLsbD 31
  · simp [hlt, -BitVec.getLsbD_eq_getElem]
  · simp [hlt, -BitVec.getLsbD_eq_getElem]

theorem reduce_unreduce (u : Word) : reduce (unreduce u) = u := by
  refine BitVec.eq_of_getLsbD_eq fun i hi => ?_
  rcases Nat.lt_or_eq_of_le (Nat.le_of_lt_succ hi) with h | rfl
  · rw [reduce_bit, unreduce_bit_succ u h, unreduce_bit_0, Bool.xor_assoc, Bool.xor_self,
      Bool.xor_false]
  · rw [reduce_bit_31, unreduce_bit_0]

theorem unreduce_reduce (v : Word) : unreduce (reduce v) = v := by
  refine BitVec.eq_of_getLsbD_eq fun i hi => ?_
  cases i with
  | zero => rw [unreduce_bit_0, reduce_bit_31]
  | succ i =>
    rw [unreduce_bit_succ _ (Nat.lt_of_succ_lt_succ hi), reduce_bit_31, reduce_bit, Bool.xor_assoc,
      Bool.xor_self, Bool.xor_false]

theorem reduce_bijective : Function.Bijective reduce :=
  Function.bijective_iff_has_inverse.mpr ⟨unreduce, unreduce_reduce, reduce_unreduce⟩

/-! ### The reduction step on a word with zeros below -/

/-- While the bits shifted out are zero, G is not added. -/
theorem reduceN_of_low_zero (k : ℕ) (v : Word) (h : ∀ i < k, v.getLsbD i = false) :
    reduceN k v = v >>> k := by
  induction k with
  | zero => simp
  | succ k ih =>
    rw [reduceN_succ, ih fun i hi => h i (by omega), reduce, BitVec.shiftRight_add]
    simp [h]

end Sys2Proof.Machine.Gf2

namespace Sys2Proof.Claims

open Polynomial Machine Machine.Gf2

/-! ### The polynomial of a word: bit 31−k, which is `getMsbD k`, is the coefficient of x^k -/

theorem poly_eq_sum_getMsbD (v : Word) :
    poly v = ∑ k ∈ Finset.range 32, if v.getMsbD k then (X : (ZMod 2)[X]) ^ k else 0 := by
  refine Finset.sum_congr rfl fun k hk => ?_
  rw [BitVec.getMsbD, decide_eq_true (Finset.mem_range.mp hk), Bool.true_and]

theorem coeff_poly (v : Word) (k : ℕ) : (poly v).coeff k = if v.getMsbD k then 1 else 0 := by
  have hterm : ∀ j, (if v.getMsbD j then (X : (ZMod 2)[X]) ^ j else 0).coeff k =
      if k = j then (if v.getMsbD k then 1 else 0) else 0 := by
    intro j
    by_cases hkj : k = j
    · subst hkj
      cases v.getMsbD k <;> simp
    · cases v.getMsbD j <;> simp [hkj, coeff_X_pow]
  rw [poly_eq_sum_getMsbD, finsetSum_coeff, Finset.sum_congr rfl fun j _ => hterm j,
    Finset.sum_ite_eq]
  by_cases hk : k < 32
  · rw [if_pos (Finset.mem_range.mpr hk)]
  · rw [if_neg (by simpa using hk), BitVec.getMsbD_of_ge v k (by omega)]
    rfl

theorem poly_injective : Function.Injective poly := by
  intro v w h
  refine BitVec.eq_of_getMsbD_eq fun k _ => ?_
  have hk := congrArg (coeff · k) h
  simp only [coeff_poly] at hk
  revert hk
  cases v.getMsbD k <;> cases w.getMsbD k <;> decide

theorem poly_xor (v w : Word) : poly (v ^^^ w) = poly v + poly w := by
  ext k
  rw [coeff_add, coeff_poly, coeff_poly, coeff_poly, BitVec.getMsbD_xor]
  cases v.getMsbD k <;> cases w.getMsbD k <;> decide

/-- The shift to the right drops the coefficient of x^31, which the product carries to x^32. -/
theorem poly_ushiftRight_one (v : Word) :
    poly (v >>> 1) + (if v.getLsbD 0 then X ^ 32 else 0) = poly v * X := by
  have hshift : poly (v >>> 1) =
      ∑ k ∈ Finset.range 31, if v.getMsbD k then (X : (ZMod 2)[X]) ^ (k + 1) else 0 := by
    rw [poly_eq_sum_getMsbD, Finset.sum_range_succ']
    simp only [BitVec.getMsbD_ushiftRight]
    rw [if_neg (by simp), add_zero]
    refine Finset.sum_congr rfl fun k hk => ?_
    have hlt : k + 1 < 32 := Nat.succ_lt_succ (Finset.mem_range.mp hk)
    simp [hlt]
  have hprod : poly v * X =
      ∑ k ∈ Finset.range 32, if v.getMsbD k then (X : (ZMod 2)[X]) ^ (k + 1) else 0 := by
    rw [poly_eq_sum_getMsbD, Finset.sum_mul]
    exact Finset.sum_congr rfl fun k _ => by rw [ite_mul, zero_mul, pow_succ]
  rw [hshift, hprod, Finset.sum_range_succ _ 31]
  rfl

theorem degree_poly_lt (v : Word) : (poly v).degree < 32 := by
  refine (degree_lt_iff_coeff_zero _ 32).mpr fun k hk => ?_
  rw [coeff_poly, BitVec.getMsbD_of_ge v k hk]
  rfl

theorem degree_modulus : modulus.degree = 32 := by
  have hlt : (poly gen).degree < (X ^ 32 : (ZMod 2)[X]).degree := by
    rw [degree_X_pow]
    exact degree_poly_lt gen
  rw [modulus, degree_add_eq_left_of_degree_lt hlt, degree_X_pow]
  rfl

/-- Where x^32 arises, one P is taken off it. -/
theorem poly_reduce (v : Word) :
    poly (reduce v) + (if v.getLsbD 0 then modulus else 0) = poly v * X := by
  rw [← poly_ushiftRight_one, reduce, poly_xor, modulus]
  cases v.getLsbD 0
  · simp [poly]
  · have htwice := CharTwo.add_self_eq_zero (poly gen)
    simp only [if_true]
    linear_combination htwice

/-! ### The residue class of a word -/

/-- The word as an element of the ring of polynomials modulo P. -/
noncomputable def residueClass (v : Word) : AdjoinRoot modulus := AdjoinRoot.mk modulus (poly v)

theorem isResidue_iff (v : Word) (p : (ZMod 2)[X]) :
    IsResidue v p ↔ residueClass v = AdjoinRoot.mk modulus p := by
  rw [eq_comm, residueClass, AdjoinRoot.mk_eq_mk, IsResidue]

theorem residueClass_injective : Function.Injective residueClass := by
  intro v w h
  have hdvd : modulus ∣ poly v - poly w := AdjoinRoot.mk_eq_mk.mp h
  have hdeg : (poly v - poly w).degree < modulus.degree := by
    rw [degree_modulus]
    exact (degree_sub_le _ _).trans_lt (max_lt (degree_poly_lt v) (degree_poly_lt w))
  exact poly_injective (sub_eq_zero.mp (eq_zero_of_dvd_of_degree_lt hdvd hdeg))

@[simp] theorem residueClass_xor (v w : Word) :
    residueClass (v ^^^ w) = residueClass v + residueClass w := by
  simp only [residueClass, poly_xor, map_add]

@[simp] theorem residueClass_zero : residueClass 0#32 = 0 := by simp [residueClass, poly]

@[simp] theorem residueClass_one : residueClass one = 1 := by
  simp [residueClass, poly, one, Finset.sum_range_succ]

@[simp] theorem residueClass_reduce (v : Word) :
    residueClass (reduce v) = residueClass v * AdjoinRoot.root modulus := by
  rw [residueClass, residueClass, ← AdjoinRoot.mk_X, ← map_mul, ← poly_reduce, map_add]
  cases v.getLsbD 0 <;> simp

@[simp] theorem residueClass_reduceN (k : ℕ) (v : Word) :
    residueClass (reduceN k v) = residueClass v * AdjoinRoot.root modulus ^ k := by
  induction k with
  | zero => simp
  | succ k ih => rw [reduceN_succ, residueClass_reduce, ih, pow_succ, mul_assoc]

@[simp] theorem residueClass_xpow (k : ℕ) :
    residueClass (xpow k) = AdjoinRoot.root modulus ^ k := by
  rw [xpow, residueClass_reduceN, residueClass_one, one_mul]

theorem residueClass_eq_sum (v : Word) :
    residueClass v =
      ∑ k ∈ Finset.range 32, if v.getMsbD k then AdjoinRoot.root modulus ^ k else 0 := by
  rw [residueClass, poly_eq_sum_getMsbD, map_sum]
  refine Finset.sum_congr rfl fun k _ => ?_
  cases v.getMsbD k <;> simp

theorem isResidue_reduce (v : Word) : IsResidue (reduce v) (poly v * X) := by
  rw [isResidue_iff, residueClass_reduce, map_mul, AdjoinRoot.mk_X, residueClass]

theorem isResidue_reduceN (k : ℕ) (v : Word) : IsResidue (reduceN k v) (poly v * X ^ k) := by
  rw [isResidue_iff, residueClass_reduceN, map_mul, map_pow, AdjoinRoot.mk_X, residueClass]

/-! ### The multiplier -/

/-- The loop adds `b` times the leading `n` coefficients of `a` (40_gf2_arith.md R103). -/
theorem residueClass_mulLoop (n : ℕ) (a b acc : Word) :
    residueClass (mulLoop n a b acc) = residueClass acc +
      (∑ k ∈ Finset.range n, if a.getMsbD k then AdjoinRoot.root modulus ^ k else 0) *
        residueClass b := by
  induction n generalizing a b acc with
  | zero => simp [mulLoop]
  | succ n ih =>
    have hacc : residueClass (if a.getLsbD 31 then acc ^^^ b else acc) =
        residueClass acc + (if a.getMsbD 0 then 1 else 0) * residueClass b := by
      rw [show a.getLsbD 31 = a.getMsbD 0 from rfl]
      cases a.getMsbD 0 <;> simp
    have hbit : ∀ k, (a <<< 1).getMsbD k = a.getMsbD (k + 1) := by simp
    rw [mulLoop, ih, hacc, residueClass_reduce, Finset.sum_range_succ']
    simp only [hbit, pow_succ, pow_zero, ← ite_zero_mul, ← Finset.sum_mul]
    ring

@[simp] theorem residueClass_gf2mul (a b : Word) :
    residueClass (gf2mul a b) = residueClass a * residueClass b := by
  rw [gf2mul, residueClass_mulLoop, residueClass_zero, zero_add, residueClass_eq_sum a]

theorem isResidue_gf2mul (a b : Word) : IsResidue (gf2mul a b) (poly a * poly b) := by
  rw [isResidue_iff, residueClass_gf2mul, map_mul, residueClass, residueClass]

/-- The terms of the product, XORed into `c` in the order of the list (40_gf2_arith.md R104). -/
theorem residueClass_foldl_terms (a b c : Word) (l : List ℕ) :
    residueClass (l.foldl (fun c i => if a.getLsbD (31 - i) then c ^^^ reduceN i b else c) c) =
      residueClass c +
        (l.map fun i => if a.getLsbD (31 - i) then AdjoinRoot.root modulus ^ i else 0).sum *
          residueClass b := by
  induction l generalizing c with
  | nil => simp
  | cons i l ih =>
    rw [List.foldl_cons, ih, List.map_cons, List.sum_cons]
    cases a.getLsbD (31 - i)
    · simp
    · simp only [if_true, residueClass_xor, residueClass_reduceN]
      ring

/-- Addition of residue classes does not depend on the order of the terms. -/
theorem gf2mul_eq_foldl_terms (a b : Word) {l : List ℕ} (hl : l.Perm (List.range 32)) :
    gf2mul a b = l.foldl (fun c i => if a.getLsbD (31 - i) then c ^^^ reduceN i b else c) 0#32 := by
  apply residueClass_injective
  rw [residueClass_foldl_terms, (hl.map _).sum_eq, residueClass_gf2mul, residueClass_zero, zero_add]
  congr 1
  rw [← List.sum_toFinset _ List.nodup_range, List.toFinset_range, residueClass_eq_sum]
  refine Finset.sum_congr rfl fun k hk => ?_
  rw [BitVec.getMsbD, decide_eq_true (Finset.mem_range.mp hk), Bool.true_and]

end Sys2Proof.Claims

namespace Sys2Proof.Machine.Gf2

open Claims

/-! ### The laws of the multiplier (40_gf2_arith.md R104) -/

theorem gf2mul_comm (a b : Word) : gf2mul a b = gf2mul b a :=
  residueClass_injective (by rw [residueClass_gf2mul, residueClass_gf2mul, mul_comm])

theorem gf2mul_assoc (a b c : Word) : gf2mul (gf2mul a b) c = gf2mul a (gf2mul b c) :=
  residueClass_injective (by simp only [residueClass_gf2mul, mul_assoc])

theorem xor_gf2mul (a b c : Word) : gf2mul (a ^^^ b) c = gf2mul a c ^^^ gf2mul b c :=
  residueClass_injective (by simp only [residueClass_gf2mul, residueClass_xor, add_mul])

theorem gf2mul_xor (a b c : Word) : gf2mul a (b ^^^ c) = gf2mul a b ^^^ gf2mul a c :=
  residueClass_injective (by simp only [residueClass_gf2mul, residueClass_xor, mul_add])

@[simp] theorem gf2mul_zero (a : Word) : gf2mul a 0#32 = 0#32 :=
  residueClass_injective (by rw [residueClass_gf2mul, residueClass_zero, mul_zero])

@[simp] theorem zero_gf2mul (b : Word) : gf2mul 0#32 b = 0#32 := by rw [gf2mul_comm, gf2mul_zero]

theorem gf2mul_xpow (a : Word) (k : ℕ) : gf2mul a (xpow k) = reduceN k a :=
  residueClass_injective (by rw [residueClass_gf2mul, residueClass_xpow, residueClass_reduceN])

theorem xpow_gf2mul (k : ℕ) (b : Word) : gf2mul (xpow k) b = reduceN k b := by
  rw [gf2mul_comm, gf2mul_xpow]

/-- ONE is x^0. -/
theorem one_gf2mul (b : Word) : gf2mul one b = b := xpow_gf2mul 0 b

/-- X is x^1. -/
theorem x_gf2mul (b : Word) : gf2mul x b = reduce b := by
  rw [show x = xpow 1 by decide]
  exact xpow_gf2mul 1 b

end Sys2Proof.Machine.Gf2

namespace Sys2Proof.Machine

open Gf2

/-! ### The byte-wise update (40_gf2_arith.md R105, R106) -/

/-- The transcribed ROM (41_tables.md R136) holds, entry by entry, the eight-step update of its
index. -/
theorem tableEntry_std (i : Byte) : tableEntry Rom.std i = reduceN 8 (Word.zext i) := by
  revert i
  decide +kernel

/-- Eight steps act on the low byte, and shift the rest (40_gf2_arith.md R106). -/
theorem reduceN_eight_eq (v : Word) :
    reduceN 8 v = reduceN 8 (Word.zext (v.setWidth 8)) ^^^ (v >>> 8) := by
  have hsplit : v = Word.zext (v.setWidth 8) ^^^ ((v >>> 8) <<< 8) := by
    refine BitVec.eq_of_getLsbD_eq fun i hi => ?_
    by_cases h : i < 8
    · simp [Word.zext, h, hi]
    · simp [Word.zext, h, hi, Nat.add_sub_cancel' (Nat.le_of_not_lt h)]
  have hhigh : reduceN 8 ((v >>> 8) <<< 8) = v >>> 8 := by
    rw [reduceN_of_low_zero _ _ fun i hi => by simp [hi]]
    refine BitVec.eq_of_getLsbD_eq fun i hi => ?_
    simpa using BitVec.lt_of_getLsbD
  conv_lhs => rw [hsplit, reduceN_xor, hhigh]

/-- The byte does not reach past the low eight bits, which the table replaces. -/
theorem byteUpdate_std (c : Word) (b : Byte) :
    byteUpdate Rom.std c b = reduceN 8 (c ^^^ Word.zext b) := by
  have hshift : (c ^^^ Word.zext b) >>> 8 = c >>> 8 := by
    refine BitVec.eq_of_getLsbD_eq fun i hi => ?_
    simp [Word.zext]
  rw [byteUpdate, updateIndex, BitVec.xor_comm (Word.zext b), tableEntry_std,
    reduceN_eight_eq (c ^^^ _), hshift]

end Sys2Proof.Machine

namespace Sys2Proof.Claims

open Polynomial Machine Machine.Gf2

theorem poly_eq_sum_getLsbD (v : Word) :
    poly v = ∑ k ∈ Finset.range 32, if v.getLsbD k then (X : (ZMod 2)[X]) ^ (31 - k) else 0 := by
  rw [← Finset.sum_range_reflect]
  refine Finset.sum_congr rfl fun k hk => ?_
  have hk' := Finset.mem_range.mp hk
  rw [show 31 - (32 - 1 - k) = k by omega]

/-- B(x) stands in the top eight coefficients of a zero-extended byte (00_scope.md R11, R12). -/
theorem poly_zext (b : Byte) : poly (Word.zext b) = bytePoly b * X ^ 24 := by
  have hhigh : ∀ k ∈ Finset.range 24, (if (Word.zext b).getLsbD (8 + k) then
      (X : (ZMod 2)[X]) ^ (31 - (8 + k)) else 0) = 0 := fun k _ => by simp [Word.zext]
  rw [poly_eq_sum_getLsbD, Finset.sum_range_add _ 8 24, Finset.sum_eq_zero hhigh, add_zero,
    bytePoly, Finset.sum_mul]
  refine Finset.sum_congr rfl fun k hk => ?_
  have hk' := Finset.mem_range.mp hk
  have hbit : (Word.zext b).getLsbD k = b.getLsbD k := by
    simp [Word.zext, show k < 32 by omega]
  rw [hbit, ite_zero_mul, ← pow_add, show 31 - k = 7 - k + 24 by omega]

theorem isResidue_byteUpdate_std (c : Word) (b : Byte) : IsResidue (byteUpdate Rom.std c b)
    (poly c * X ^ 8 + bytePoly b * X ^ 32) := by
  have hpoly : poly c * X ^ 8 + bytePoly b * X ^ 32 = poly (c ^^^ Word.zext b) * X ^ 8 := by
    rw [poly_xor, poly_zext]
    ring
  rw [byteUpdate_std, hpoly]
  exact isResidue_reduceN 8 _

end Sys2Proof.Claims

namespace Sys2Proof

open Machine Machine.Operands

/-! ### MUL and RED, and their words (40_gf2_arith.md R111, R112) -/

theorem opc_wordB (op b : Byte) : opc (wordB op b) = op :=
  (BitVec.extractLsb'_append_eq_of_le (by decide)).trans BitVec.extractLsb'_append_eq_left

theorem reservedByteForm_wordB (op b : Byte) : reservedByteForm (wordB op b) = 0#16 :=
  (BitVec.extractLsb'_append_eq_of_le (Nat.le_refl 8)).trans BitVec.extractLsb'_append_eq_right

theorem byteField_wordB (op b : Byte) : byteField (wordB op b) = b :=
  BitVec.extractLsb'_append_eq_right

theorem decode_wordB_red (b : Byte) : decode (wordB 0x07#8 b) = .ok (.red b.toNat) := by
  have hcount : countField (wordB 0x07#8 b) = b.toNat :=
    congrArg BitVec.toNat (byteField_wordB _ b)
  simp [decode, opc_wordB, reservedByteForm_wordB, hcount, ifZero]

theorem redOpcode_or_zext_eq_wordB (b : Byte) : 0x07000000#32 ||| Word.zext b = wordB 0x07#8 b := by
  calc 0x07000000#32 ||| Word.zext b
    _ = (0x070000#24 ++ 0#8) ||| (0#24 ++ b) := by
        rw [Word.zext, BitVec.setWidth_eq_append (by decide)]
        rfl
    _ = 0x070000#24 ++ b := by rw [BitVec.or_append, BitVec.or_zero, BitVec.zero_or]
    _ = wordB 0x07#8 b := rfl

/-- The word of RED k (40_gf2_arith.md R112). -/
theorem decode_red_word {k : ℕ} (hk : k < 256) :
    decode (0x07000000#32 ||| BitVec.ofNat 32 k) = .ok (.red k) := by
  have hzext : BitVec.ofNat 32 k = Word.zext (BitVec.ofNatLT k hk : Byte) := by
    rw [zext_eq_ofNat, BitVec.toNat_ofNatLT]
  rw [hzext, redOpcode_or_zext_eq_wordB, decode_wordB_red]
  rfl

theorem executeCommand_of_decode {v : Word} {i : Instr} (h : decode v = .ok i) (s : State) :
    executeCommand v s = exec i s := by
  simp [executeCommand, h]

theorem decode_of_hasReservedOne {op : Byte} {reserved v : Word} (i : Instr)
    (hop : op = opc (opcodeRow i).2) (hreserved : reserved = 0#8 ++ arg (opcodeRow i).1)
    (h : Claims.HasReservedOne op reserved v) : decode v = .error .reservedBits := by
  subst hop hreserved
  exact decode_of_reserved_one i h.1 h.2

end Sys2Proof

namespace Sys2Proof.Machine

open Gf2

theorem exec_mul_of_product {s : State} {v : Word} (h : gf2mul s.opa s.opb = v) :
    exec .mul s = .next { s with auxres := v } := by
  subst h
  rfl

theorem exec_red_of_power {k : ℕ} {s : State} {v : Word} (h : reduceN k s.opa = v) :
    exec (.red k) s = .next { s with auxres := v } := by
  subst h
  rfl

end Sys2Proof.Machine

namespace Sys2Proof.Proofs

open Machine Machine.Gf2 Claims

/-- Settles O1: the residue class of `reduce v` is that of `v` times x; the rest is read bit by
bit. -/
theorem reduceIsMultiplicationByX : Obligations.ReduceIsMultiplicationByX :=
  ⟨isResidue_reduce, fun v i _ => reduce_bit v i, reduce_bit_31, reduce_zero, reduce_xor,
    by decide, by decide, unreduce_reduce, reduce_unreduce, reduce_bijective⟩

/-- Settles O2, by induction on k in the ring of residue classes. -/
theorem reducePowerIsPowerOfX : Obligations.ReducePowerIsPowerOfX :=
  fun k v => ⟨reduceN_zero v, reduceN_succ k v, isResidue_reduceN k v⟩

/-- Settles O3: words with equal residue classes are equal, so each law is one of the ring of
polynomials modulo P. -/
theorem multiplierIsPolynomialProduct : Obligations.MultiplierIsPolynomialProduct :=
  ⟨isResidue_gf2mul, gf2mul_comm, gf2mul_assoc, xor_gf2mul, gf2mul_xor, gf2mul_zero, zero_gf2mul,
    one_gf2mul, x_gf2mul, gf2mul_xpow, fun a b _ hl => gf2mul_eq_foldl_terms a b hl⟩

/-- Settles O5: the low byte is looked up and the rest is shifted, as in eight reduction steps. -/
theorem byteUpdateIsEightReductions : Obligations.ByteUpdateIsEightReductions :=
  fun c b => ⟨byteUpdate_std c b, isResidue_byteUpdate_std c b⟩

/-- Settles O27: the laws of the product, at MUL's operands. -/
theorem mulWritesTheProduct : Obligations.MulWritesTheProduct := by
  refine fun s => ⟨exec_mul_of_product rfl, isResidue_gf2mul _ _, fun h => exec_mul_of_product ?_,
    fun h => exec_mul_of_product ?_, by decide, executeCommand_of_decode (by decide) s,
    fun v h => executeCommand_of_error (decode_of_hasReservedOne .mul rfl rfl h) s⟩
  · rcases h with h | h
    · rw [h, zero_gf2mul]
    · rw [h, gf2mul_zero]
  · rw [h]
    exact one_gf2mul _

/-- Settles O28: the laws of the powers of the reduction step, at RED's operand. -/
theorem redWritesThePowerMultiple : Obligations.RedWritesThePowerMultiple := by
  refine fun k s => ⟨exec_red_of_power rfl, isResidue_reduceN k _,
    fun h => exec_red_of_power ?_, fun h => exec_red_of_power ?_, by decide, by decide,
    fun hk => executeCommand_of_decode (decode_red_word hk) s,
    fun v h => executeCommand_of_error (decode_of_hasReservedOne (.red 0) rfl rfl h) s⟩
  · rw [h, reduceN_zero]
  · rw [h, reduceN_of_zero]

end Sys2Proof.Proofs
end

section
/-! SUPPORT. The tables (41_tables.md): a built table as the products of its seed, the ROM and
PREFIX as built tables, the table of the current W, and the words of TBLRD. -/

namespace Sys2Proof.Machine

open Gf2 Claims

/-! ### The entries of a built table (R131, R135) -/

theorem seedSum_two_pow (u : Word) {k : ℕ} (hk : k < 8) :
    seedSum u (2 ^ k) = reduceN (7 - k) u := by
  rw [seedSum_eq]
  simp only [Nat.testBit_two_pow]
  interval_cases k <;> simp

theorem tableEntry_buildTable_two_pow (u : Word) {k : ℕ} (hk : k < 8) :
    tableEntry (buildTable u) (BitVec.ofNat 8 (2 ^ k)) = reduceN (7 - k) u := by
  have hlt : 2 ^ k < 2 ^ 8 := Nat.pow_lt_pow_right (by decide) hk
  rw [buildTable_entry, BitVec.toNat_ofNat, Nat.mod_eq_of_lt hlt, seedSum_two_pow u hk]

theorem tableEntry_buildTable_xor (u : Word) (i j : Byte) :
    tableEntry (buildTable u) (i ^^^ j) =
      tableEntry (buildTable u) i ^^^ tableEntry (buildTable u) j := by
  rw [buildTable_entry, BitVec.toNat_xor, seedSum_xor, ← buildTable_entry, ← buildTable_entry]

@[simp] theorem tableEntry_buildTable_zero (u : Word) : tableEntry (buildTable u) 0#8 = 0#32 := by
  simp [buildTable_entry, seedSum_eq]

/-- The seed entry of bit k stands for the seed times x^(7−k). -/
theorem residueClass_foldl_seeds (u : Word) (i : Byte) (n : ℕ) :
    residueClass ((List.range n).foldl
        (fun c k => if i.toNat.testBit k then c ^^^ reduceN (7 - k) u else c) 0#32) =
      (∑ k ∈ Finset.range n, if i.getLsbD k then AdjoinRoot.root modulus ^ (7 - k) else 0) *
        residueClass u := by
  induction n with
  | zero => simp
  | succ n ih =>
    rw [List.range_succ, List.foldl_append, List.foldl_cons, List.foldl_nil, Finset.sum_range_succ,
      add_mul, ← ih, BitVec.testBit_toNat]
    cases i.getLsbD n
    · simp
    · simp [mul_comm]

theorem mk_bytePoly (b : Byte) : AdjoinRoot.mk modulus (bytePoly b) =
    ∑ k ∈ Finset.range 8, if b.getLsbD k then AdjoinRoot.root modulus ^ (7 - k) else 0 := by
  rw [bytePoly, map_sum]
  refine Finset.sum_congr rfl fun k _ => ?_
  rw [apply_ite (AdjoinRoot.mk modulus), map_pow, AdjoinRoot.mk_X, map_zero]

/-- Entry i stands for B_i(x) times the seed. -/
@[simp] theorem residueClass_tableEntry_buildTable (u : Word) (i : Byte) :
    residueClass (tableEntry (buildTable u) i) =
      AdjoinRoot.mk modulus (bytePoly i) * residueClass u := by
  rw [buildTable_entry, seedSum, residueClass_foldl_seeds, mk_bytePoly]

/-! ### STD and PREFIX as built tables (R133, R134, R137, R138) -/

/-- G is x^32 mod P (40_gf2_arith.md R107). -/
theorem gen_eq_xpow : gen = xpow 32 := by decide

@[simp] theorem residueClass_gen : residueClass gen = AdjoinRoot.root modulus ^ 32 := by
  rw [gen_eq_xpow, residueClass_xpow]

/-- STD[i] stands for B_i(x)·x^32. -/
@[simp] theorem residueClass_tableEntry_std (i : Byte) :
    residueClass (tableEntry Rom.std i) =
      AdjoinRoot.mk modulus (bytePoly i) * AdjoinRoot.root modulus ^ 32 := by
  rw [tableEntry_std, residueClass_reduceN, residueClass, poly_zext, map_mul, map_pow,
    AdjoinRoot.mk_X, mul_assoc, ← pow_add]

theorem isResidue_tableEntry_std (i : Byte) :
    IsResidue (tableEntry Rom.std i) (bytePoly i * Polynomial.X ^ 32) := by
  rw [isResidue_iff, residueClass_tableEntry_std, map_mul, map_pow, AdjoinRoot.mk_X]

theorem table_ext {t t' : Table} (h : ∀ i, tableEntry t i = tableEntry t' i) : t = t' :=
  Vector.ext fun i hi => h (BitVec.ofNatLT i hi)

theorem std_eq_buildTable : Rom.std = buildTable gen :=
  table_ext fun i => residueClass_injective (by simp)

/-- The seed of PREFIX is G·x^(8W), so its table is STD times x^(8W). -/
theorem tableEntry_prefix (w : ℕ) (b : Byte) :
    tableEntry (buildTable (prefixSeed (xpow (8 * w)))) b =
      gf2mul (tableEntry Rom.std b) (xpow (8 * w)) :=
  residueClass_injective (by simp [prefixSeed, mul_assoc])

theorem isResidue_tableEntry_prefix (w : ℕ) (b : Byte) :
    IsResidue (tableEntry (buildTable (prefixSeed (xpow (8 * w)))) b)
      (bytePoly b * Polynomial.X ^ (8 * w + 32)) := by
  rw [isResidue_iff, tableEntry_prefix, residueClass_gf2mul, residueClass_tableEntry_std,
    residueClass_xpow, map_mul, map_pow, AdjoinRoot.mk_X, mul_assoc, ← pow_add, Nat.add_comm 32]

/-! ### What the start of a message adds to its un-complemented CRC (R138) -/

theorem byteUpdate_std_zero (b : Byte) : byteUpdate Rom.std 0#32 b = tableEntry Rom.std b := by
  rw [byteUpdate_std, BitVec.zero_xor, tableEntry_std]

/-- The accumulator a message starts from is carried eight steps further by each byte, apart from
the bytes themselves. -/
theorem foldl_byteUpdate_std (c : Word) (m : List Byte) :
    m.foldl (byteUpdate Rom.std) c = reduceN (8 * m.length) c ^^^ crc0 m := by
  induction m generalizing c with
  | nil => simp [crc0]
  | cons b m ih =>
    have hstep : byteUpdate Rom.std c b = reduceN 8 c ^^^ byteUpdate Rom.std 0#32 b := by
      simp only [byteUpdate_std, reduceN_xor, BitVec.zero_xor]
    rw [crc0, List.foldl_cons, List.foldl_cons, ih, ih (byteUpdate _ _ _), hstep, reduceN_xor,
      ← reduceN_add, List.length_cons, Nat.mul_succ, BitVec.xor_assoc]

theorem crc0_cons (b : Byte) (m : List Byte) :
    crc0 (b :: m) =
      tableEntry (buildTable (prefixSeed (xpow (8 * m.length)))) b ^^^ crc0 m := by
  rw [crc0, List.foldl_cons, byteUpdate_std_zero, foldl_byteUpdate_std, tableEntry_prefix,
    gf2mul_xpow]

/-! ### The table of the current W (R139, R140) -/

theorem State.prefixEntry_of_some {s : State} {t : Table} (h : s.prefixTable = some t) (i : Byte) :
    s.prefixEntry i = tableEntry t i := by
  rw [State.prefixEntry, h, Option.getD_some]

/-- A configured phase has a window size, and its constants (10_state.md R23, R29, R30, R39). -/
theorem State.Inv.configured {s : State} (hinv : s.Inv) (h : s.phase ≠ .unconfigured) :
    s.Configured := by
  have hphase := hinv.phaseInv
  unfold State.PhaseInv at hphase
  cases hp : s.phase with
  | unconfigured => exact absurd hp h
  | fill => rw [hp] at hphase; exact hphase.1
  | run => rw [hp] at hphase; exact hphase.1

theorem State.Configured.prefixEntry_eq {s : State} (h : s.Configured) (i : Byte) :
    s.prefixEntry i = tableEntry (buildTable (prefixSeed (Gf2.xpow (8 * s.wsize.toNat)))) i := by
  rw [State.prefixEntry_of_some h.prefix_eq, h.xpow_eq]

theorem State.startStream_loadConstants_idem (s : State) (w : ℕ) :
    ((s.loadConstants w).startStream.loadConstants w).startStream =
      (s.loadConstants w).startStream := rfl

/-! ### TBLRD (R140) -/

theorem exec_tblrd_std_of_entry {idx : Byte} {s : State} {v : Word}
    (h : tableEntry s.std idx = v) : exec (.tblrd .std idx) s = .next { s with auxres := v } := by
  subst h
  rfl

theorem exec_tblrd_prefixTable_of_entry {idx : Byte} {s : State} {v : Word}
    (hp : s.phase ≠ .unconfigured) (h : s.prefixEntry idx = v) :
    exec (.tblrd .prefixTable idx) s = .next { s with auxres := v } := by
  subst h
  exact execTblrd_prefixTable_of_configured idx hp

end Sys2Proof.Machine

namespace Sys2Proof

open Machine Machine.Operands

/-! ### The words of TBLRD (30_encoding.md R81, R85, R86) -/

theorem opc_wordT (op : Byte) (sel : TableSel) (idx : Byte) : opc (wordT op sel idx) = op :=
  (BitVec.extractLsb'_append_eq_of_le (by decide)).trans <|
    (BitVec.extractLsb'_append_eq_of_le (by decide)).trans <|
      (BitVec.extractLsb'_append_eq_of_le (by decide)).trans BitVec.extractLsb'_eq_self

theorem reservedTableForm_wordT (op : Byte) (sel : TableSel) (idx : Byte) :
    reservedTableForm (wordT op sel idx) = 0#15 :=
  (BitVec.extractLsb'_append_eq_of_le (by decide)).trans <|
    (BitVec.extractLsb'_append_eq_of_le (by decide)).trans BitVec.extractLsb'_append_eq_right

theorem selField_wordT (op : Byte) (sel : TableSel) (idx : Byte) :
    selField (wordT op sel idx) = sel := by
  have hbit : (wordT op sel idx).getLsbD 8 = (selBit sel).getLsbD 0 := by
    rw [wordT, BitVec.getLsbD_append, BitVec.getLsbD_append]
    rfl
  rw [selField, hbit]
  cases sel <;> rfl

theorem idxField_wordT (op : Byte) (sel : TableSel) (idx : Byte) :
    idxField (wordT op sel idx) = idx := BitVec.extractLsb'_append_eq_right

theorem decode_wordT_tblrd (sel : TableSel) (idx : Byte) :
    decode (wordT 0x08#8 sel idx) = .ok (.tblrd sel idx) := by
  simp [decode, opc_wordT, reservedTableForm_wordT, selField_wordT, idxField_wordT, ifZero]

/-- The low byte of a word whose other bits are given is filled in by OR. -/
theorem append_zero_or_zext (hi : BitVec 24) (b : Byte) :
    (hi ++ 0#8 ||| Word.zext b : Word) = hi ++ b := by
  rw [Word.zext, BitVec.setWidth_eq_append (by decide)]
  exact BitVec.or_append.trans (by rw [BitVec.or_zero, BitVec.zero_or])

theorem decode_tblrd_std_word (idx : Byte) :
    decode (0x08000000#32 ||| Word.zext idx) = .ok (.tblrd .std idx) :=
  (congrArg decode (append_zero_or_zext 0x080000#24 idx)).trans (decode_wordT_tblrd .std idx)

theorem decode_tblrd_prefixTable_word (idx : Byte) :
    decode (0x08000100#32 ||| Word.zext idx) = .ok (.tblrd .prefixTable idx) :=
  (congrArg decode (append_zero_or_zext 0x080001#24 idx)).trans
    (decode_wordT_tblrd .prefixTable idx)

end Sys2Proof

namespace Sys2Proof.Proofs

open Machine Machine.Gf2 Claims

/-- Settles O6: every entry is the XOR of the seed entries of its index's one bits. -/
theorem builtTablesAreSeededAndLinear : Obligations.BuiltTablesAreSeededAndLinear :=
  fun u => ⟨fun _ hk => tableEntry_buildTable_two_pow u hk, tableEntry_buildTable_xor u,
    tableEntry_buildTable_zero u⟩

/-- Settles O7: entry i of both tables has the residue class of B_i(x)·x^32. -/
theorem standardRomIsByteCrc : Obligations.StandardRomIsByteCrc :=
  ⟨std_eq_buildTable, fun i => ⟨tableEntry_std i, isResidue_tableEntry_std i⟩⟩

/-- Settles O8: the departing byte's entry of STD is carried 8W steps by the W bytes after it. -/
theorem prefixTableIsDepartingContribution : Obligations.PrefixTableIsDepartingContribution := by
  refine fun w b => ⟨tableEntry_prefix w b, isResidue_tableEntry_prefix w b, ?_⟩
  rintro m rfl
  exact crc0_cons b m

/-- Settles O29: in FILL and RUN the invariant ties PREFIX to the table of the current W, and every
built table has entry 0 zero. -/
theorem tblrdWritesTheEntry : Obligations.TblrdWritesTheEntry := by
  refine fun idx s => ⟨rfl, execTblrd_prefixTable_of_unconfigured idx,
    execTblrd_prefixTable_of_configured idx, fun t ht => State.prefixEntry_of_some ht idx,
    fun hinv hp => exec_tblrd_prefixTable_of_entry hp ((hinv.configured hp).prefixEntry_eq idx),
    fun hinv => ⟨exec_tblrd_std_of_entry ?_, fun hp => exec_tblrd_prefixTable_of_entry hp ?_⟩,
    by decide, executeCommand_of_decode (decode_tblrd_std_word idx) s,
    executeCommand_of_decode (decode_tblrd_prefixTable_word idx) s,
    fun v h => executeCommand_of_error (decode_of_hasReservedOne (.tblrd .std 0#8) rfl rfl h) s⟩
  · rw [hinv.rom, std_eq_buildTable, tableEntry_buildTable_zero]
  · rw [(hinv.configured hp).prefixEntry_eq, tableEntry_buildTable_zero]

/-- Settles O34: the second CONFIG is in range too, and writes what the first wrote. -/
theorem repeatedConfigIsIdempotent : Obligations.RepeatedConfigIsIdempotent := by
  intro w s t hpos hmax h
  obtain rfl : (s.loadConstants w).startStream = t :=
    Host.Outcome.next.inj ((execConfig_of_in_range hpos hmax).symm.trans h)
  have hagain := execConfig_of_in_range (s := (s.loadConstants w).startStream) hpos hmax
  rwa [State.startStream_loadConstants_idem] at hagain

end Sys2Proof.Proofs
end

section
/-! SUPPORT. The un-complemented CRC and the CRC-32 of a byte sequence (42_engine.md R161, R169,
R170): the residue of its polynomial, linearity, and the correction constant. -/

namespace Sys2Proof.Machine

open Gf2 Claims

/-! ### The un-complemented CRC (R169) -/

@[simp] theorem crc0_nil : crc0 [] = 0#32 := rfl

theorem crc0_append_singleton (m : List Byte) (b : Byte) :
    crc0 (m ++ [b]) = byteUpdate Rom.std (crc0 m) b := List.foldl_concat ..

/-- Each byte contributes B_i(x)·x^32, carried eight steps by each of the bytes after it. -/
theorem residueClass_crc0 (m : List Byte) : residueClass (crc0 m) =
    AdjoinRoot.mk modulus (messagePoly m) * AdjoinRoot.root modulus ^ 32 := by
  induction m with
  | nil => simp [messagePoly]
  | cons b m ih =>
    rw [crc0_cons, residueClass_xor, residueClass_tableEntry_buildTable, ih, messagePoly, map_add,
      map_mul, map_pow, AdjoinRoot.mk_X, prefixSeed, residueClass_gf2mul, residueClass_gen,
      residueClass_xpow]
    ring

theorem isResidue_crc0 (m : List Byte) :
    IsResidue (crc0 m) (messagePoly m * Polynomial.X ^ 32) := by
  rw [isResidue_iff, residueClass_crc0, map_mul, map_pow, AdjoinRoot.mk_X]

theorem xor_xor_xor_comm (a b c d : Word) : a ^^^ b ^^^ (c ^^^ d) = a ^^^ c ^^^ (b ^^^ d) := by
  ac_rfl

/-- The contributions are linear in the byte, and equally long tails carry both heads alike. -/
theorem crc0_zipWith_xor {m n : List Byte} (h : m.length = n.length) :
    crc0 (List.zipWith (· ^^^ ·) m n) = crc0 m ^^^ crc0 n := by
  induction m generalizing n with
  | nil =>
    obtain rfl : n = [] := List.length_eq_zero_iff.mp h.symm
    rfl
  | cons b m ih =>
    cases n with
    | nil => cases h
    | cons c n =>
      have htail : m.length = n.length := Nat.succ.inj h
      rw [List.zipWith_cons_cons, crc0_cons, crc0_cons, crc0_cons, ih htail,
        tableEntry_buildTable_xor, List.length_zipWith, htail, Nat.min_self]
      exact xor_xor_xor_comm _ _ _ _

@[simp] theorem crc0_replicate_zero (w : ℕ) : crc0 (List.replicate w 0#8) = 0#32 := by
  induction w with
  | zero => rfl
  | succ w ih =>
    rw [List.replicate_succ, crc0_cons, ih, tableEntry_buildTable_zero, BitVec.xor_zero]

/-! ### The CRC-32 and its correction constant (R161, R170) -/

/-- The start value takes no part in the byte contributions: it and the final inversion make up the
correction constant of the length. -/
theorem crc32_eq_crc0_xor_correction (m : List Byte) :
    crc32 m = crc0 m ^^^ correction (xpow (8 * m.length)) := by
  rw [crc32, foldl_byteUpdate_std, correction, gf2mul_xpow, BitVec.xor_comm (reduceN _ _),
    BitVec.xor_assoc]

theorem correction_xpow_eq_crc32_replicate_zero (w : ℕ) :
    correction (xpow (8 * w)) = crc32 (List.replicate w 0#8) := by
  rw [crc32_eq_crc0_xor_correction, crc0_replicate_zero, BitVec.zero_xor, List.length_replicate]

end Sys2Proof.Machine

namespace Sys2Proof.Proofs

open Machine Machine.Gf2 Claims

/-- Settles O9: the bytes' contributions add up in the ring of residue classes, and each of them is
linear in its byte. -/
theorem uncomplementedCrcIsRemainder : Obligations.UncomplementedCrcIsRemainder :=
  ⟨isResidue_crc0, crc0_nil, crc0_append_singleton, fun _ _ h => crc0_zipWith_xor h⟩

/-- Settles O10: the fold from all ones is that from zero beside the carried start value. -/
theorem crc32FromUncomplementedCrc : Obligations.Crc32FromUncomplementedCrc := by
  refine fun m => ⟨rfl, ?_⟩
  rw [crc32_eq_crc0_xor_correction, BitVec.xor_assoc]
  rfl

/-- Settles O11: zero bytes contribute nothing, so their CRC-32 is the correction alone. -/
theorem correctionIsCrc32OfZeroBytes : Obligations.CorrectionIsCrc32OfZeroBytes :=
  fun w => ⟨rfl, gf2mul_xpow _ _, correction_xpow_eq_crc32_replicate_zero w⟩

end Sys2Proof.Proofs
end

section
/-! SUPPORT. The engine's commands CONFIG, FILL, STEP and RESTART (42_engine.md R160 to R168): the
words that encode them, the states they leave, and the window slots they leave alone. -/

namespace Sys2Proof

open Machine Machine.Operands

/-! ### The words of CONFIG, FILL and STEP (30_encoding.md R81, R83, R84, R86) -/

theorem opc_wordC (op : Byte) (w : ℕ) : opc (wordC op w) = op :=
  BitVec.extractLsb'_append_eq_left

theorem wimm_wordC (op : Byte) {w : ℕ} (hw : w < 2 ^ 24) : wimm (wordC op w) = w := by
  have harg : arg (wordC op w) = BitVec.ofNat 24 w := BitVec.extractLsb'_append_eq_right
  rw [wimm, harg, BitVec.toNat_ofNat, Nat.mod_eq_of_lt hw]

theorem configOpcode_or_ofNat_eq_wordC {w : ℕ} (hw : w < 2 ^ 24) :
    0x01000000#32 ||| BitVec.ofNat 32 w = wordC 0x01#8 w := by
  have hzext : BitVec.ofNat 32 w = Word.zext (BitVec.ofNat 24 w) := by
    rw [zext_eq_ofNat, BitVec.toNat_ofNat, Nat.mod_eq_of_lt hw]
  calc 0x01000000#32 ||| BitVec.ofNat 32 w
    _ = (0x01#8 ++ 0#24) ||| (0#8 ++ BitVec.ofNat 24 w) := by
        rw [hzext, Word.zext, BitVec.setWidth_eq_append (by decide)]
        rfl
    _ = 0x01#8 ++ BitVec.ofNat 24 w := by rw [BitVec.or_append, BitVec.or_zero, BitVec.zero_or]
    _ = wordC 0x01#8 w := rfl

theorem decode_config_word {w : ℕ} (hw : w < 2 ^ 24) :
    decode (0x01000000#32 ||| BitVec.ofNat 32 w) = .ok (.config w) := by
  rw [configOpcode_or_ofNat_eq_wordC hw]
  simp [decode, opc_wordC, wimm_wordC _ hw]

theorem decode_fill_word (b : Byte) : decode (0x02000000#32 ||| Word.zext b) = .ok (.fill b) := by
  refine (congrArg decode (append_zero_or_zext 0x020000#24 b)).trans ?_
  show decode (wordB 0x02#8 b) = _
  simp [decode, opc_wordB, reservedByteForm_wordB, byteField_wordB, ifZero]

theorem decode_step_word (b : Byte) : decode (0x03000000#32 ||| Word.zext b) = .ok (.step b) := by
  refine (congrArg decode (append_zero_or_zext 0x030000#24 b)).trans ?_
  show decode (wordB 0x03#8 b) = _
  simp [decode, opc_wordB, reservedByteForm_wordB, byteField_wordB, ifZero]

end Sys2Proof

namespace Sys2Proof.Machine

open Claims

/-- A window size that CONFIG admits fits its register (10_state.md R23). -/
theorem toNat_ofNat_of_le_size {w : ℕ} {c : Size} (h : w ≤ c.toNat) :
    (BitVec.ofNat 24 w).toNat = w := by
  rw [BitVec.toNat_ofNat, Nat.mod_eq_of_lt (Nat.lt_of_le_of_lt h c.isLt)]

/-! ### The states that FILL and STEP leave (R162, R166) -/

namespace State

variable (s : State) (b : Byte)

@[simp] theorem filled_win : (s.filled b).win = s.win.write s.pos.toNat b := rfl
@[simp] theorem filled_acc : (s.filled b).acc = byteUpdate s.std s.acc b := rfl
@[simp] theorem filled_pos : (s.filled b).pos = nextPos s.wsize s.pos := rfl
@[simp] theorem filled_phase : (s.filled b).phase =
    if s.pos.toNat + 1 = s.wsize.toNat then .run else .fill := rfl
@[simp] theorem filled_wsize : (s.filled b).wsize = s.wsize := rfl
@[simp] theorem filled_std : (s.filled b).std = s.std := rfl
@[simp] theorem stepped_win : (s.stepped b).win = s.win.write s.pos.toNat b := rfl
@[simp] theorem stepped_acc :
    (s.stepped b).acc = s.slideAcc b (s.winByte s.pos.toNat) := rfl
@[simp] theorem stepped_pos : (s.stepped b).pos = nextPos s.wsize s.pos := rfl
@[simp] theorem stepped_wsize : (s.stepped b).wsize = s.wsize := rfl
@[simp] theorem stepped_lastOut : (s.stepped b).lastOut = s.crcOut := rfl
@[simp] theorem stepped_crcxor : (s.stepped b).crcxor = s.crcxor := rfl

/-- A slot that was written since reset holds its byte (10_state.md R40). -/
theorem winByte_of_read {s : State} {i : ℕ} {b : Byte} (h : s.win.read i = some b) :
    s.winByte i = b := by
  rw [winByte, h, Option.getD_some]

/-- The constants of the current W are in place, so computing them again changes nothing. -/
theorem Configured.loadConstants_wsize {s : State} (h : s.Configured) :
    s.loadConstants s.wsize.toNat = s := by
  have hcrc := h.crcxor_eq
  have htable := h.prefix_eq
  rw [h.xpow_eq] at hcrc htable
  ext1 <;> simp [h.xpow_eq, hcrc, htable]

end State

/-- The index of the standard table is the low byte of the sum (40_gf2_arith.md R105). -/
theorem slideAcc_eq (s : State) (b old : Byte) : s.slideAcc b old =
    tableEntry s.std ((Word.zext b ^^^ s.acc).extractLsb' 0 8) ^^^ (s.acc >>> 8) ^^^
      s.prefixEntry old := by
  rw [State.slideAcc, byteUpdate, updateIndex, BitVec.setWidth_eq_extractLsb' (by decide)]

/-! ### What a completed FILL or STEP leaves -/

theorem eq_filled_of_execFill {b : Byte} {s t : State} (hp : s.phase = .fill)
    (h : execFill b s = .next t) : t = s.filled b := by
  rcases execFill_next h with ⟨hp', -⟩ | ⟨hp', -⟩ | ⟨-, -, ht⟩
  · simp [hp] at hp'
  · simp [hp] at hp'
  · exact ht

theorem eq_stepped_of_execStep {b : Byte} {s t : State} (hp : s.phase = .run)
    (h : execStep b s = .next t) : t = s.stepped b := by
  rcases execStep_next h with ⟨hp', -⟩ | ⟨hp', -⟩ | ⟨-, -, ht⟩
  · simp [hp] at hp'
  · simp [hp] at hp'
  · exact ht

/-! ### The window under all commands (R165) -/

theorem execConfig_win {w : ℕ} {s t : State} (h : execConfig w s = .next t) : t.win = s.win := by
  rcases execConfig_next h with ⟨-, rfl⟩ | ⟨-, -, rfl⟩ <;> simp

theorem execRestart_win {s t : State} (h : execRestart s = .next t) : t.win = s.win := by
  rcases execRestart_next h with ⟨-, rfl⟩ | ⟨-, rfl⟩ <;> simp

theorem execTblrd_win {sel : TableSel} {idx : Byte} {s t : State}
    (h : execTblrd sel idx s = .next t) : t.win = s.win := by
  rcases execTblrd_next h with ⟨-, rfl⟩ | ⟨-, -, rfl⟩ | ⟨-, -, rfl⟩ <;> simp

theorem execFill_win {b : Byte} {s t : State} (h : execFill b s = .next t) :
    t.win = s.win ∨ t.win = s.win.write s.pos.toNat b := by
  rcases execFill_next h with ⟨-, rfl⟩ | ⟨-, rfl⟩ | ⟨-, -, rfl⟩ <;> simp

theorem execStep_win {b : Byte} {s t : State} (h : execStep b s = .next t) :
    t.win = s.win ∨ t.win = s.win.write s.pos.toNat b := by
  rcases execStep_next h with ⟨-, rfl⟩ | ⟨-, rfl⟩ | ⟨-, -, rfl⟩ <;> simp

/-- A command leaves the window alone, or is a FILL or STEP and writes its byte to slot POS. -/
theorem exec_win {i : Instr} {s t : State} (h : exec i s = .next t) :
    t.win = s.win ∨ WritesWindow i ∧ ∃ b, t.win = s.win.write s.pos.toNat b := by
  cases i with
  | nop => obtain rfl := Host.Outcome.next.inj h; exact .inl rfl
  | config w => exact .inl (execConfig_win h)
  | fill b => exact (execFill_win h).imp_right fun hw => ⟨trivial, b, hw⟩
  | step b => exact (execStep_win h).imp_right fun hw => ⟨trivial, b, hw⟩
  | restart => exact .inl (execRestart_win h)
  | clrerr => obtain rfl := Host.Outcome.next.inj h; exact .inl rfl
  | mul => obtain rfl := Host.Outcome.next.inj h; exact .inl rfl
  | red k => obtain rfl := Host.Outcome.next.inj h; exact .inl rfl
  | tblrd sel idx => exact .inl (execTblrd_win h)

theorem exec_win_of_not_writesWindow {i : Instr} {s t : State} (h : exec i s = .next t)
    (hi : ¬ WritesWindow i) : t.win = s.win :=
  (exec_win h).resolve_right fun hw => hi hw.1

theorem exec_win_read_other {i : Instr} {s t : State} (h : exec i s = .next t) {a : ℕ}
    (ha : a ≠ s.pos.toNat) : t.win.read a = s.win.read a := by
  rcases exec_win h with hw | ⟨-, b, hw⟩
  · rw [hw]
  · rw [hw, Memory.read_write_other _ _ ha]

/-! ### The position counter (R164) -/

theorem nextPos_toNat_eq_ite {wsize p : Size} (h : p.toNat < wsize.toNat) :
    (nextPos wsize p).toNat = if p.toNat + 1 = wsize.toNat then 0 else p.toNat + 1 := by
  rw [nextPos_toNat h]
  split
  · next hlast => rw [hlast, Nat.mod_self]
  · next hlast => exact Nat.mod_eq_of_lt (by omega)

end Sys2Proof.Machine

namespace Sys2Proof.Proofs

open Machine Claims

/-- Settles O30: the two clauses on W are the two branches of CONFIG's range check. -/
theorem configLoadsTheConstants : Obligations.ConfigLoadsTheConstants :=
  fun w s => ⟨fun hpos hmax => ⟨execConfig_of_in_range hpos hmax, toNat_ofNat_of_le_size hmax⟩,
    execConfig_of_out_of_range, by decide,
    fun hw => executeCommand_of_decode (decode_config_word hw) s⟩

/-- Settles O31: a FILL in phase FILL leaves `s.filled b`, whose window is one write at POS. -/
theorem fillAppendsTheByte : Obligations.FillAppendsTheByte :=
  fun b s => ⟨fun hp hlt => ⟨s.filled b, execFill_of_slot b hp hlt,
      Memory.read_write_same .., fun _ ha => Memory.read_write_other _ b ha,
      nextPos_of_ne s.pos, rfl⟩,
    execFill_of_unconfigured b, execFill_of_run b, executeCommand_of_decode (decode_fill_word b) s,
    fun _ h => executeCommand_of_error (decode_of_hasReservedOne (.fill 0#8) rfl rfl h) s⟩

/-- Settles O32: a STEP in phase RUN leaves `s.stepped b`, whose window is one write at POS and
whose accumulator takes the byte slot POS held before. -/
theorem stepSlidesTheWindow : Obligations.StepSlidesTheWindow := by
  refine fun b s => ⟨fun hp hlt => ⟨s.stepped b, execStep_of_slot b hp hlt,
      Memory.read_write_same .., fun _ ha => Memory.read_write_other _ b ha,
      nextPos_of_ne s.pos, ?_⟩,
    execStep_of_unconfigured b, execStep_of_fill b, fun _ _ => State.winByte_of_read,
    fun _ i ht => State.prefixEntry_of_some ht i, executeCommand_of_decode (decode_step_word b) s,
    fun _ h => executeCommand_of_error (decode_of_hasReservedOne (.step 0#8) rfl rfl h) s⟩
  rw [← slideAcc_eq]
  rfl

/-- Settles O33: CONFIG with the current W would load the constants that the invariant says are in
place, and both commands then start the stream. -/
theorem restartStartsANewStream : Obligations.RestartStartsANewStream := by
  refine fun s => ⟨execRestart_of_configured, execRestart_of_unconfigured, fun hinv hp => ?_,
    executeCommand_of_decode (by decide) s,
    fun _ h => executeCommand_of_error (decode_of_hasReservedOne .restart rfl rfl h) s⟩
  have hc := hinv.configured hp
  calc exec .restart s
    _ = .next s.startStream := execRestart_of_configured hp
    _ = .next (s.loadConstants s.wsize.toNat).startStream := by rw [hc.loadConstants_wsize]
    _ = exec (.config s.wsize.toNat) s :=
        (execConfig_of_in_range hc.wsize_pos hc.wsize_le).symm

/-- Settles O36: every command leaves the window as it was or makes one write at POS. -/
theorem onlyFillAndStepWriteTheWindow : Obligations.OnlyFillAndStepWriteTheWindow := by
  refine fun i s t h => ⟨exec_win_of_not_writesWindow h, fun a => exec_win_read_other h, ?_, ?_⟩
  · rintro b rfl hp
    rw [eq_filled_of_execFill hp h, State.filled_win, Memory.read_write_same]
  · rintro b rfl hp
    rw [eq_stepped_of_execStep hp h, State.stepped_win, Memory.read_write_same]
    exact ⟨rfl, rfl⟩

/-- Settles O38: both commands leave `next_pos(POS)`, which wraps at the last slot. -/
theorem positionCyclesThroughTheWindow : Obligations.PositionCyclesThroughTheWindow := by
  refine ⟨fun _ _ => nextPos_toNat_eq_ite, fun b s t hp h => ?_, fun b s t hp h => ?_⟩
  · rw [eq_filled_of_execFill hp h, State.filled_pos]
  · rw [eq_stepped_of_execStep hp h, State.stepped_pos]

end Sys2Proof.Proofs
end

section
/-! SUPPORT. The window in time order (42_engine.md R163, R172, R175, R176): how a STEP slides it,
how FILLs load it, and the checksum of it. -/

namespace Sys2Proof.Machine

open Gf2 Claims

/-! ### The window as a list of bytes (10_state.md R37) -/

namespace State

variable {s : State}

@[simp] theorem length_window (s : State) : s.window.length = s.wsize.toNat := by simp [window]

theorem winByte_of_win_eq {t : State} {i j : ℕ} {b : Byte} (hwin : t.win = s.win.write i b)
    (hepoch : t.epoch = s.epoch) : t.winByte j = if j = i then b else s.winByte j := by
  rw [← winByte_storeWin, winByte, winByte, hwin, hepoch]
  rfl

/-- The slot of the oldest byte is POS. -/
theorem window_eq_cons {n : ℕ} (hw : s.wsize.toNat = n + 1) (hpos : s.pos.toNat < s.wsize.toNat) :
    s.window = s.winByte s.pos.toNat ::
      (List.range n).map fun k => s.winByte ((s.pos.toNat + 1 + k) % s.wsize.toNat) := by
  rw [window, hw, List.range_succ_eq_map, List.map_cons, List.map_map, Nat.add_zero, ← hw,
    Nat.mod_eq_of_lt hpos]
  congr 2
  funext k
  rw [Function.comp_apply, Nat.succ_eq_add_one, Nat.add_assoc, Nat.add_comm k]

/-- The slots after POS, up to the one before it, are other slots than POS. -/
theorem slot_after_ne {p w k : ℕ} (hp : p < w) (hk : k + 1 < w) : (p + 1 + k) % w ≠ p := by
  rcases Nat.lt_or_ge (p + 1 + k) w with h | h
  · rw [Nat.mod_eq_of_lt h]; omega
  · rw [Nat.mod_eq_sub_mod h, Nat.mod_eq_of_lt (by omega)]; omega

/-- A STEP takes the oldest byte off the window and appends its own (R166, R172). -/
theorem window_stepped (b : Byte) (hpos : s.pos.toNat < s.wsize.toNat) :
    (s.stepped b).window = s.window.tail ++ [b] := by
  obtain ⟨n, hw⟩ : ∃ n, s.wsize.toNat = n + 1 := Nat.exists_eq_add_one.mpr (Nat.zero_lt_of_lt hpos)
  have hbyte (j : ℕ) : (s.stepped b).winByte j = if j = s.pos.toNat then b else s.winByte j :=
    winByte_of_win_eq rfl rfl
  have hlast : (s.pos.toNat + 1 + n) % s.wsize.toNat = s.pos.toNat := by
    rw [Nat.add_assoc, Nat.add_comm 1, ← hw, Nat.add_mod_right, Nat.mod_eq_of_lt hpos]
  rw [window_eq_cons hw hpos, List.tail_cons, window, stepped_pos, stepped_wsize,
    nextPos_toNat hpos, hw, List.range_succ, List.map_append, List.map_singleton, ← hw]
  simp only [Nat.mod_add_mod, hbyte, hlast, if_true]
  congr 1
  refine List.map_congr_left fun k hk => ?_
  have hk' : k < n := List.mem_range.mp hk
  rw [if_neg (slot_after_ne hpos (by omega))]

end State

/-! ### The checksum of the window (R172, R175, R176) -/

namespace State.Configured

variable {s : State}

/-- CRCXOR corrects the un-complemented CRC of any W bytes (R161, R170). -/
theorem crc0_xor_crcxor (h : s.Configured) {m : List Byte} (hm : m.length = s.wsize.toNat) :
    crc0 m ^^^ s.crcxor = crc32 m := by
  rw [crc32_eq_crc0_xor_correction, hm, ← h.xpow_eq, h.crcxor_eq]

/-- The arriving byte is appended to W bytes, and PREFIX takes off what the departing one adds to
the W bytes that remain (R166, R172). -/
theorem slideAcc_crc0 (h : s.Configured) (hrom : s.std = Rom.std) {old : Byte} {m : List Byte}
    (hm : (old :: m).length = s.wsize.toNat) (hacc : s.acc = crc0 (old :: m)) (b : Byte) :
    s.slideAcc b old = crc0 (m ++ [b]) := by
  have hlen : (m ++ [b]).length = s.wsize.toNat := by rw [← hm]; simp
  have happend : byteUpdate Rom.std (crc0 (old :: m)) b =
      s.prefixEntry old ^^^ crc0 (m ++ [b]) := by
    rw [← crc0_append_singleton, List.cons_append, crc0_cons, hlen, h.prefixEntry_eq]
  rw [slideAcc, hrom, hacc, happend, BitVec.xor_comm (s.prefixEntry old), BitVec.xor_assoc,
    BitVec.xor_self, BitVec.xor_zero]

/-- The accumulator stays the un-complemented CRC of the window over a STEP (R172). -/
theorem acc_stepped (h : s.Configured) (hrom : s.std = Rom.std) (hacc : s.acc = crc0 s.window)
    (b : Byte) : (s.stepped b).acc = crc0 (s.window.tail ++ [b]) := by
  obtain ⟨n, hw⟩ : ∃ n, s.wsize.toNat = n + 1 := Nat.exists_eq_add_one.mpr h.wsize_pos
  have hwindow := State.window_eq_cons hw h.pos_lt
  have hlen := s.length_window
  rw [hwindow] at hacc hlen
  rw [State.stepped_acc, hwindow, List.tail_cons, h.slideAcc_crc0 hrom hlen hacc]

/-- A position below W is a slot of the window memory. -/
theorem pos_lt_wmax (h : s.Configured) : s.pos.toNat < s.cfg.wmax.toNat :=
  Nat.lt_of_lt_of_le h.pos_lt h.wsize_le

theorem filled (h : s.Configured) (b : Byte) : (s.filled b).Configured :=
  { h with pos_lt := nextPos_lt h.pos_lt }

theorem startStream (h : s.Configured) : s.startStream.Configured :=
  { h with pos_lt := h.wsize_pos }

end State.Configured

/-- In phase RUN the accumulator is the un-complemented CRC of the window (R172). -/
theorem State.Inv.acc_of_run {s : State} (hinv : s.Inv) (hp : s.phase = .run) :
    s.acc = crc0 s.window := by
  have hphase := hinv.phaseInv
  rw [State.PhaseInv, hp] at hphase
  exact hphase.2.2

theorem State.configured_of_config (s : State) {w : ℕ} (hpos : 1 ≤ w)
    (hmax : w ≤ s.cfg.wmax.toNat) : (s.loadConstants w).startStream.Configured :=
  have hw : (BitVec.ofNat 24 w).toNat = w := toNat_ofNat_of_le_size hmax
  { wsize_pos := hpos.trans_eq hw.symm
    wsize_le := hw.trans_le hmax
    pos_lt := hpos.trans_eq hw.symm
    xpow_eq := congrArg (fun n => Gf2.xpow (8 * n)) hw.symm
    crcxor_eq := rfl
    prefix_eq := rfl }

/-! ### Loading the first window (R163, R171) -/

/-- The bytes of the stream so far are `m`, no more than W of them: they stand in the first slots,
ACC is their un-complemented CRC, and the phase is RUN when they are W (R162, R171). -/
structure State.HoldsFirst (s : State) (m : List Byte) : Prop where
  rom : s.std = Rom.std
  configured : s.Configured
  length_le : m.length ≤ s.wsize.toNat
  slots : ∀ i < m.length, s.win.read i = m[i]?
  acc_eq : s.acc = crc0 m
  pos_eq : s.pos.toNat = m.length % s.wsize.toNat
  phase_eq : s.phase = if m.length = s.wsize.toNat then .run else .fill

namespace State

variable {s : State} {m : List Byte}

theorem holdsFirst_nil_startStream (hrom : s.std = Rom.std) (hc : s.startStream.Configured) :
    s.startStream.HoldsFirst [] where
  rom := hrom
  configured := hc
  length_le := Nat.zero_le _
  slots := nofun
  acc_eq := rfl
  pos_eq := (Nat.zero_mod _).symm
  phase_eq := (if_neg (Nat.ne_of_lt hc.wsize_pos)).symm

namespace HoldsFirst

theorem pos_eq_length (h : s.HoldsFirst m) (hlt : m.length < s.wsize.toNat) :
    s.pos.toNat = m.length := h.pos_eq.trans (Nat.mod_eq_of_lt hlt)

theorem phase_eq_fill (h : s.HoldsFirst m) (hlt : m.length < s.wsize.toNat) : s.phase = .fill :=
  h.phase_eq.trans (if_neg (Nat.ne_of_lt hlt))

/-- A FILL appends its byte to those loaded (R162). -/
theorem filled (h : s.HoldsFirst m) (hlt : m.length < s.wsize.toNat) (b : Byte) :
    (s.filled b).HoldsFirst (m ++ [b]) := by
  have hpos := h.pos_eq_length hlt
  have hlen : (m ++ [b]).length = m.length + 1 := List.length_append
  refine ⟨h.rom, h.configured.filled b, hlen ▸ hlt, fun i hi => ?_, ?_, ?_, ?_⟩
  · rw [filled_win, Memory.read_write, hpos]
    split
    · next hlast => rw [hlast, List.getElem?_concat_length]
    · next hne =>
      have hi' : i < m.length := by omega
      rw [h.slots i hi', List.getElem?_append_left hi']
  · rw [filled_acc, h.rom, h.acc_eq, crc0_append_singleton]
  · rw [filled_pos, filled_wsize, nextPos_toNat h.configured.pos_lt, hpos, hlen]
  · rw [filled_phase, filled_wsize, hpos, hlen]

theorem winByte_eq (h : s.HoldsFirst m) {i : ℕ} (hi : i < m.length) : s.winByte i = m[i] :=
  winByte_of_read ((h.slots i hi).trans (List.getElem?_eq_getElem hi))

theorem pos_eq_zero (h : s.HoldsFirst m) (hm : m.length = s.wsize.toNat) : s.pos = 0#24 :=
  BitVec.eq_of_toNat_eq (by rw [h.pos_eq, hm, Nat.mod_self]; rfl)

/-- The oldest of W bytes is in slot 0, where POS is. -/
theorem window_eq (h : s.HoldsFirst m) (hm : m.length = s.wsize.toNat) : s.window = m := by
  refine List.ext_getElem (s.length_window.trans hm.symm) fun i _ hi => ?_
  have hslot : (s.pos.toNat + i) % s.wsize.toNat = i := by
    rw [h.pos_eq_zero hm, BitVec.toNat_zero, Nat.zero_add, Nat.mod_eq_of_lt (hm ▸ hi)]
  simp only [window, List.getElem_map, List.getElem_range, hslot, h.winByte_eq hi]

theorem loaded (h : s.HoldsFirst m) (hm : m.length = s.wsize.toNat) : Loaded s m :=
  ⟨fun i hi => (h.slots i hi).trans (List.getElem?_eq_getElem hi), h.acc_eq, h.pos_eq_zero hm,
    h.phase_eq.trans (if_pos hm), h.window_eq hm⟩

end HoldsFirst

end State

/-! ### Commands in sequence -/

theorem runCommands_cons (i : Instr) (is : List Instr) (s : State) :
    runCommands (i :: is) s = andThen (exec i s) (runCommands is) := by
  rw [runCommands]
  cases exec i s <;> rfl

/-- FILLs of no more bytes than are missing from the first window all complete. -/
theorem State.HoldsFirst.runCommands_fills {s : State} {m : List Byte} (h : s.HoldsFirst m)
    (bs : List Byte) (hle : m.length + bs.length ≤ s.wsize.toNat) :
    ∃ t, runCommands (bs.map .fill) s = .next t ∧ t.wsize = s.wsize ∧ t.HoldsFirst (m ++ bs) := by
  induction bs generalizing s m with
  | nil => exact ⟨s, rfl, rfl, by rwa [List.append_nil]⟩
  | cons b bs ih =>
    rw [List.length_cons] at hle
    have hlt : m.length < s.wsize.toNat := by omega
    have hfill : exec (.fill b) s = .next (s.filled b) :=
      execFill_of_slot b (h.phase_eq_fill hlt) h.configured.pos_lt_wmax
    obtain ⟨t, hrun, hwsize, ht⟩ := ih (h.filled hlt b) (by simp; omega)
    refine ⟨t, ?_, hwsize, by rwa [List.append_assoc] at ht⟩
    rw [List.map_cons, runCommands_cons, hfill, andThen_next, hrun]

/-- A command that starts a stream, and then W FILLs (R163). -/
theorem runCommands_first_window {s u : State} {start : Instr} {m : List Byte}
    (hstart : exec start s = .next u.startStream) (hrom : u.std = Rom.std)
    (hc : u.startStream.Configured) (hm : m.length = u.wsize.toNat) :
    ∃ t, runCommands (start :: m.map .fill) s = .next t ∧ Loaded t m ∧
      ∀ b, ∃ v, exec (.step b) t = .next v ∧ v.window = m.tail ++ [b] := by
  obtain ⟨t, hrun, hwsize, ht⟩ :=
    (State.holdsFirst_nil_startStream hrom hc).runCommands_fills m (by simp [hm])
  have hfull : m.length = t.wsize.toNat := by rw [hwsize, hm, State.startStream_wsize]
  refine ⟨t, by rw [runCommands_cons, hstart, andThen_next, hrun], ht.loaded hfull,
    fun b => ⟨t.stepped b, ?_, ?_⟩⟩
  · exact execStep_of_slot b (ht.phase_eq.trans (if_pos hfull)) ht.configured.pos_lt_wmax
  · rw [State.window_stepped b ht.configured.pos_lt, ht.window_eq hfull, List.nil_append]

end Sys2Proof.Machine

namespace Sys2Proof.Proofs

open Machine Claims

/-- Settles O45: ACC is the un-complemented CRC of the W bytes of the window, and CRCXOR the
correction for W bytes. -/
theorem observedChecksumIsCrc32OfTheWindow : Obligations.ObservedChecksumIsCrc32OfTheWindow := by
  intro s hinv hp
  have hcrc : s.acc ^^^ s.crcxor = crc32 s.window := by
    rw [hinv.acc_of_run hp]
    exact (hinv.configured (by simp [hp])).crc0_xor_crcxor s.length_window
  exact ⟨hcrc, hcrc, s.length_window⟩

/-- Settles O46: the window slides by one byte, and ACC stays its un-complemented CRC. -/
theorem stepReportsTheOldWindowAndSlides : Obligations.StepReportsTheOldWindowAndSlides := by
  intro b s hinv hp
  have hc := hinv.configured (by simp [hp])
  have hacc := hinv.acc_of_run hp
  refine ⟨s.stepped b, execStep_of_slot b hp hc.pos_lt_wmax, ?_, rfl,
    State.window_stepped b hc.pos_lt, ?_⟩
  · rw [State.stepped_lastOut, State.crcOut, hacc, hc.crc0_xor_crcxor s.length_window]
  · have hlen : (s.window.tail ++ [b]).length = s.wsize.toNat := by
      rw [← State.window_stepped b hc.pos_lt, State.length_window, State.stepped_wsize]
    rw [State.crcOut, hc.acc_stepped hinv.rom hacc, State.stepped_crcxor, hc.crc0_xor_crcxor hlen]

/-- Settles O47: CONFIG and RESTART both start a stream in a configured state, and each FILL appends
its byte to those loaded. -/
theorem fillsInitializeTheWindow : Obligations.FillsInitializeTheWindow := by
  refine fun s m hinv => ⟨?_, fun hp hm => ?_⟩
  · rintro w rfl hpos hmax
    exact runCommands_first_window (execConfig_of_in_range hpos hmax) hinv.rom
      (s.configured_of_config hpos hmax) (toNat_ofNat_of_le_size hmax).symm
  · exact runCommands_first_window (execRestart_of_configured hp) hinv.rom
      (hinv.configured hp).startStream hm

end Sys2Proof.Proofs
end

section
/-! SUPPORT. The control commands NOP and CLRERR, and the legality of every command in every phase
(43_control.md R200, R203, R206). -/

namespace Sys2Proof.Machine

open Claims

/-- Clearing a clear record has no effect (43_control.md R203). -/
theorem State.clearError_of_clear {s : State} (herr : s.err = false) (hcode : s.errcode = .none) :
    s.clearError = s := by
  rw [State.clearError, ← herr, ← hcode]

/-! ### The phase table's "ok" rows (43_control.md R206) -/

theorem phaseTable_config_eq_none_iff (wmax : Size) (w : ℕ) (p : Phase) :
    phaseTable wmax (.config w) p = .none ↔ 1 ≤ w ∧ w ≤ wmax.toNat := by
  by_cases hw : 1 ≤ w ∧ w ≤ wmax.toNat
  · exact iff_of_true (if_pos hw) hw
  · exact iff_of_false (by simp [phaseTable, hw]) hw

theorem phaseTable_fill_eq_none_iff (wmax : Size) (b : Byte) (p : Phase) :
    phaseTable wmax (.fill b) p = .none ↔ p = .fill := by
  cases p <;> simp [phaseTable]

theorem phaseTable_step_eq_none_iff (wmax : Size) (b : Byte) (p : Phase) :
    phaseTable wmax (.step b) p = .none ↔ p = .run := by
  cases p <;> simp [phaseTable]

theorem phaseTable_restart_eq_none_iff (wmax : Size) (p : Phase) :
    phaseTable wmax .restart p = .none ↔ p ≠ .unconfigured := by
  cases p <;> simp [phaseTable]

theorem phaseTable_tblrd_prefixTable_eq_none_iff (wmax : Size) (idx : Byte) (p : Phase) :
    phaseTable wmax (.tblrd .prefixTable idx) p = .none ↔ p ≠ .unconfigured := by
  cases p <;> simp [phaseTable]

/-! ### What a command does under each outcome of the table -/

/-- A command to which the phase table gives a code records that code and does nothing else
(43_control.md R206). -/
theorem exec_of_phaseTable_error {i : Instr} {s : State}
    (h : phaseTable s.cfg.wmax i s.phase ≠ .none) :
    exec i s = .next (s.recordError (phaseTable s.cfg.wmax i s.phase)) := by
  cases i with
  | nop => exact absurd rfl h
  | config w =>
    rw [Ne, phaseTable_config_eq_none_iff] at h
    have hcode : phaseTable s.cfg.wmax (.config w) s.phase = .badW := if_neg h
    rw [hcode]
    exact execConfig_of_out_of_range (by omega)
  | fill b =>
    cases hp : s.phase with
    | unconfigured => exact execFill_of_unconfigured b hp
    | fill => exact absurd (hp ▸ rfl) h
    | run => exact execFill_of_run b hp
  | step b =>
    cases hp : s.phase with
    | unconfigured => exact execStep_of_unconfigured b hp
    | fill => exact execStep_of_fill b hp
    | run => exact absurd (hp ▸ rfl) h
  | restart =>
    rw [Ne, phaseTable_restart_eq_none_iff, not_not] at h
    rw [h]
    exact execRestart_of_unconfigured h
  | clrerr => exact absurd rfl h
  | mul => exact absurd rfl h
  | red k => exact absurd rfl h
  | tblrd sel idx =>
    cases sel with
    | std => exact absurd rfl h
    | prefixTable =>
      rw [Ne, phaseTable_tblrd_prefixTable_eq_none_iff, not_not] at h
      rw [h]
      exact execTblrd_prefixTable_of_unconfigured idx h

/-- A command that the phase table allows completes, where slot POS exists, and only CLRERR touches
the error record (43_control.md R206). -/
theorem exec_of_phaseTable_ok {i : Instr} {s : State}
    (h : phaseTable s.cfg.wmax i s.phase = .none) (hslot : s.pos.toNat < s.cfg.wmax.toNat) :
    ∃ t, exec i s = .next t ∧ (i ≠ .clrerr → t.err = s.err ∧ t.errcode = s.errcode) := by
  cases i with
  | nop => exact ⟨s, rfl, fun _ => ⟨rfl, rfl⟩⟩
  | config w =>
    obtain ⟨hpos, hmax⟩ := (phaseTable_config_eq_none_iff ..).mp h
    exact ⟨_, execConfig_of_in_range hpos hmax, fun _ => ⟨rfl, rfl⟩⟩
  | fill b =>
    have hp := (phaseTable_fill_eq_none_iff ..).mp h
    exact ⟨_, execFill_of_slot b hp hslot, fun _ => ⟨rfl, rfl⟩⟩
  | step b =>
    have hp := (phaseTable_step_eq_none_iff ..).mp h
    exact ⟨_, execStep_of_slot b hp hslot, fun _ => ⟨rfl, rfl⟩⟩
  | restart =>
    have hp := (phaseTable_restart_eq_none_iff ..).mp h
    exact ⟨_, execRestart_of_configured hp, fun _ => ⟨rfl, rfl⟩⟩
  | clrerr => exact ⟨s.clearError, rfl, fun hne => absurd rfl hne⟩
  | mul => exact ⟨_, rfl, fun _ => ⟨rfl, rfl⟩⟩
  | red k => exact ⟨_, rfl, fun _ => ⟨rfl, rfl⟩⟩
  | tblrd sel idx =>
    cases sel with
    | std => exact ⟨_, rfl, fun _ => ⟨rfl, rfl⟩⟩
    | prefixTable =>
      have hp := (phaseTable_tblrd_prefixTable_eq_none_iff ..).mp h
      exact ⟨_, execTblrd_prefixTable_of_configured idx hp, fun _ => ⟨rfl, rfl⟩⟩

end Sys2Proof.Machine

namespace Sys2Proof.Proofs

open Machine

/-- Settles O22: the error rows and the "ok" rows of the table, and then a word that decodes to no
command. -/
theorem legalityFollowsThePhaseTable : Obligations.LegalityFollowsThePhaseTable :=
  fun _ s => ⟨exec_of_phaseTable_error, exec_of_phaseTable_ok,
    fun _ _ hdecode => executeCommand_of_error hdecode s⟩

/-- Settles O26: NOP and CLRERR are their arms of exec, and a clear record is already cleared. -/
theorem nopAndClrerrComplete : Obligations.NopAndClrerrComplete := by
  refine fun s => ⟨rfl, rfl, fun herr hcode => ?_, executeCommand_of_decode (by decide) s,
    executeCommand_of_decode (by decide) s, fun v h => ?_⟩
  · exact congrArg Host.Outcome.next (State.clearError_of_clear herr hcode)
  · rcases h with h | h
    · exact executeCommand_of_error (decode_of_hasReservedOne .nop rfl rfl h) s
    · exact executeCommand_of_error (decode_of_hasReservedOne .clrerr rfl rfl h) s

end Sys2Proof.Proofs
end

section
/-! SUPPORT. The sticky error record (60_exceptions.md R228, R229): every command but CLRERR runs
alike whatever the record holds, and so no service but CLRERR's word and a reset clears one. -/

namespace Sys2Proof

open Machine.Operands

theorem eq_of_decode_clrerr {v : Word} (h : decode v = .ok .clrerr) : v = 0x05000000#32 := by
  obtain ⟨hopc, hzero⟩ := (selectsRow_opcodeRow_iff v .clrerr).mp (selectsRow_of_decode h)
  exact (word_eq_iff v 0x05000000#32).mpr ⟨hopc, (arg_eq_zero_iff v).mpr hzero⟩

end Sys2Proof

namespace Sys2Proof.Machine

open Claims

/-! ### A state with an error recorded -/

namespace State

/-- The state with code `c` standing in the error record, and nothing else changed. -/
def withError (c : ErrCode) (s : State) : State := { s with err := true, errcode := c }

variable {s : State}

@[simp] theorem recordError_withError (c e : ErrCode) :
    (s.withError c).recordError e = s.withError c := recordError_of_err _ e rfl

@[simp] theorem withError_recordError (c e : ErrCode) :
    (s.recordError e).withError c = s.withError c := by
  cases h : s.err with
  | true => rw [recordError_of_err s e h]
  | false => rw [recordError_of_no_err s e h]; rfl

theorem withError_eq_self_iff {c : ErrCode} :
    s.withError c = s ↔ s.err = true ∧ s.errcode = c := by
  constructor
  · intro h
    rw [← h]
    exact ⟨rfl, rfl⟩
  · rintro ⟨herr, rfl⟩
    rw [withError, ← herr]

end State

/-! ### No command but CLRERR sees the record (R229) -/

/-- The outcome `r` with code `c` standing in the error record of its next state. -/
def underError (c : ErrCode) (r : Result) : Result :=
  andThen r fun t => .next (t.withError c)

@[simp] theorem underError_next (c : ErrCode) (t : State) :
    underError c (.next t) = .next (t.withError c) := rfl

section

variable {s : State} (c : ErrCode)

/-- A command that fails leaves the standing record, whatever it would have recorded. -/
theorem exec_withError_of_phaseTable_error {i : Instr}
    (h : phaseTable s.cfg.wmax i s.phase ≠ .none) :
    exec i (s.withError c) = underError c (exec i s) := by
  rw [exec_of_phaseTable_error h, exec_of_phaseTable_error (s := s.withError c) h]
  simp

/-- A command that is legal neither reads nor writes the record, except CLRERR. -/
theorem exec_withError_of_phaseTable_ok {i : Instr} (hi : i ≠ .clrerr)
    (h : phaseTable s.cfg.wmax i s.phase = .none) :
    exec i (s.withError c) = underError c (exec i s) := by
  cases i with
  | nop => rfl
  | config w =>
    obtain ⟨hpos, hmax⟩ := (phaseTable_config_eq_none_iff ..).mp h
    simp only [exec]
    rw [execConfig_of_in_range hpos hmax, execConfig_of_in_range (s := s.withError c) hpos hmax]
    rfl
  | fill b =>
    have hp := (phaseTable_fill_eq_none_iff ..).mp h
    simp only [exec]
    rcases Nat.lt_or_ge s.pos.toNat s.cfg.wmax.toNat with hslot | hslot
    · rw [execFill_of_slot b hp hslot, execFill_of_slot (s := s.withError c) b hp hslot]; rfl
    · rw [execFill_of_no_slot b hp hslot, execFill_of_no_slot (s := s.withError c) b hp hslot]; rfl
  | step b =>
    have hp := (phaseTable_step_eq_none_iff ..).mp h
    simp only [exec]
    rcases Nat.lt_or_ge s.pos.toNat s.cfg.wmax.toNat with hslot | hslot
    · rw [execStep_of_slot b hp hslot, execStep_of_slot (s := s.withError c) b hp hslot]; rfl
    · rw [execStep_of_no_slot b hp hslot, execStep_of_no_slot (s := s.withError c) b hp hslot]; rfl
  | restart =>
    have hp := (phaseTable_restart_eq_none_iff ..).mp h
    simp only [exec]
    rw [execRestart_of_configured hp, execRestart_of_configured (s := s.withError c) hp]
    rfl
  | clrerr => exact absurd rfl hi
  | mul => rfl
  | red k => rfl
  | tblrd sel idx =>
    cases sel with
    | std => rfl
    | prefixTable =>
      have hp := (phaseTable_tblrd_prefixTable_eq_none_iff ..).mp h
      simp only [exec]
      rw [execTblrd_prefixTable_of_configured idx hp,
        execTblrd_prefixTable_of_configured (s := s.withError c) idx hp]
      rfl

theorem exec_withError {i : Instr} (hi : i ≠ .clrerr) :
    exec i (s.withError c) = underError c (exec i s) := by
  by_cases h : phaseTable s.cfg.wmax i s.phase = .none
  · exact exec_withError_of_phaseTable_ok c hi h
  · exact exec_withError_of_phaseTable_error c h

end

/-- A failed command changes nothing under a standing error. -/
theorem exec_of_phaseTable_error_of_err {i : Instr} {s : State} (herr : s.err = true)
    (h : phaseTable s.cfg.wmax i s.phase ≠ .none) : exec i s = .next s := by
  rw [exec_of_phaseTable_error h, State.recordError_of_err s _ herr]

/-! ### What keeps a standing record (R228) -/

section

variable {s t : State}

/-- A command that runs alike under the record that stands already leaves it standing. -/
theorem exec_keeps_record {i : Instr} (hi : i ≠ .clrerr) (herr : s.err = true)
    (h : exec i s = .next t) : t.err = true ∧ t.errcode = s.errcode := by
  have hs : s.withError s.errcode = s := State.withError_eq_self_iff.mpr ⟨herr, rfl⟩
  have halike := exec_withError (s := s) s.errcode hi
  rw [hs, h, underError_next] at halike
  exact State.withError_eq_self_iff.mp (Host.Outcome.next.inj halike).symm

theorem executeCommand_keeps_record {v : Word} (herr : s.err = true)
    (h : executeCommand v s = .next t) :
    t.err = true ∧ t.errcode = s.errcode ∨ v = 0x05000000#32 := by
  rcases executeCommand_next h with ⟨i, hdec, hexec⟩ | ⟨e, -, rfl⟩
  · by_cases hi : i = .clrerr
    · exact .inr (eq_of_decode_clrerr (hi ▸ hdec))
    · exact .inl (exec_keeps_record hi herr hexec)
  · exact .inl (by rw [State.recordError_of_err s _ herr]; exact ⟨herr, rfl⟩)

theorem hostWrite_keeps_record {off : BitVec 8} {v : Word} (herr : s.err = true)
    (h : hostWrite off v s = .next t) :
    t.err = true ∧ t.errcode = s.errcode ∨ off = 0x00#8 ∧ v = 0x05000000#32 := by
  rcases hostWrite_next h with ⟨hoff, hcmd⟩ | ⟨-, rfl⟩ | ⟨-, rfl⟩ | rfl
  · exact (executeCommand_keeps_record herr hcmd).imp_right fun hv => ⟨hoff, hv⟩
  · exact .inl ⟨herr, rfl⟩
  · exact .inl ⟨herr, rfl⟩
  · exact .inl ⟨herr, rfl⟩

theorem serve_keeps_record {m : HostMove} (herr : s.err = true) (h : serve m s = .next t) :
    t.err = true ∧ t.errcode = s.errcode ∨ m = commandMove 0x05000000#32 ∨ m = .reset := by
  rcases serve_next h with ⟨_, _, -, -, rfl⟩ | ⟨width, off, v, rfl, hadmit, hwrite⟩ | ⟨hm, -⟩
  · exact .inl ⟨herr, rfl⟩
  · obtain ⟨rfl, -⟩ := (accessRefusal_eq_none_iff width off).mp hadmit
    rcases hostWrite_keeps_record herr hwrite with hkept | ⟨rfl, rfl⟩
    · exact .inl hkept
    · exact .inr (.inl rfl)
  · exact .inr (.inr hm)

theorem step_keeps_record (herr : s.err = true) (h : step s = .next t) :
    t.err = true ∧ t.errcode = s.errcode ∨
      ∃ rest, s.pending = commandMove 0x05000000#32 :: rest ∨ s.pending = .reset :: rest := by
  rcases step_next h with ⟨-, rfl⟩ | ⟨m, rest, hp, hserve⟩
  · exact .inl ⟨herr, rfl⟩
  · rcases serve_keeps_record (s := s.withPending rest) herr hserve with hkept | rfl | rfl
    · exact .inl hkept
    · exact .inr ⟨rest, .inl hp⟩
    · exact .inr ⟨rest, .inr hp⟩

end

end Sys2Proof.Machine

namespace Sys2Proof.Proofs

open Machine

/-- Settles O23: `recordError` under a clear and a standing record, and then every step that keeps
it, down to the commands, which run alike under it. -/
theorem firstErrorIsKeptUntilCleared : Obligations.FirstErrorIsKeptUntilCleared :=
  ⟨fun c s => ⟨fun h => congrArg Host.Outcome.next (s.recordError_of_no_err c h),
    fun h => congrArg Host.Outcome.next (s.recordError_of_err c h)⟩,
    fun _ _ => step_keeps_record⟩

/-- Settles O24: a command's failing and its effect do not depend on the record, and a second code
is not recorded. -/
theorem commandsRunAlikeWhileErrIsSet : Obligations.CommandsRunAlikeWhileErrIsSet := by
  refine fun i s t c hi h => ⟨?_, fun herr hfail => ?_⟩
  · exact (exec_withError c hi).trans (congrArg (underError c) h)
  · exact Host.Outcome.next.inj (h.symm.trans (exec_of_phaseTable_error_of_err herr hfail))

end Sys2Proof.Proofs
end

section
/-! SUPPORT. The ROM under every command, move and run (70_reset_and_hazards.md R262; 41_tables.md
R136): no update of the state touches STD. -/

namespace Sys2Proof.Machine

@[simp] theorem State.stepped_std (s : State) (b : Byte) : (s.stepped b).std = s.std := rfl

variable {s t : State}

/-- No command writes the ROM, whether it fails or completes. -/
theorem exec_std {i : Instr} (h : exec i s = .next t) : t.std = s.std := by
  cases i with
  | nop => obtain rfl := Host.Outcome.next.inj h; rfl
  | config w => rcases execConfig_next h with ⟨-, rfl⟩ | ⟨-, -, rfl⟩ <;> simp
  | fill b => rcases execFill_next h with ⟨-, rfl⟩ | ⟨-, rfl⟩ | ⟨-, -, rfl⟩ <;> simp
  | step b => rcases execStep_next h with ⟨-, rfl⟩ | ⟨-, rfl⟩ | ⟨-, -, rfl⟩ <;> simp
  | restart => rcases execRestart_next h with ⟨-, rfl⟩ | ⟨-, rfl⟩ <;> simp
  | clrerr => obtain rfl := Host.Outcome.next.inj h; rfl
  | mul => obtain rfl := Host.Outcome.next.inj h; rfl
  | red k => obtain rfl := Host.Outcome.next.inj h; rfl
  | tblrd sel idx =>
    rcases execTblrd_next h with ⟨-, rfl⟩ | ⟨-, -, rfl⟩ | ⟨-, -, rfl⟩ <;> simp

theorem executeCommand_std {v : Word} (h : executeCommand v s = .next t) : t.std = s.std := by
  rcases executeCommand_next h with ⟨i, -, hexec⟩ | ⟨e, -, rfl⟩
  · exact exec_std hexec
  · exact s.recordError_std _

theorem hostWrite_std {off : BitVec 8} {v : Word} (h : hostWrite off v s = .next t) :
    t.std = s.std := by
  rcases hostWrite_next h with ⟨-, hcmd⟩ | ⟨-, rfl⟩ | ⟨-, rfl⟩ | rfl
  · exact executeCommand_std hcmd
  · exact s.setOpa_std v
  · exact s.setOpb_std v
  · rfl

theorem serve_std {m : HostMove} (h : serve m s = .next t) : t.std = s.std := by
  rcases serve_next h with ⟨_, _, -, -, rfl⟩ | ⟨_, _, _, -, -, hwrite⟩ | ⟨-, rfl⟩
  · exact s.logRead_std _
  · exact hostWrite_std hwrite
  · exact s.afterReset_std

theorem step_std (h : step s = .next t) : t.std = s.std := by
  rcases step_next h with ⟨-, rfl⟩ | ⟨m, rest, -, hserve⟩
  · rfl
  · exact (serve_std hserve).trans (s.withPending_std rest)

/-- A run keeps the ROM it started with, from any state. -/
theorem runMoves_std {ms : List HostMove} (h : Claims.runMoves ms s = .next t) :
    t.std = s.std := by
  induction ms generalizing s with
  | nil =>
    obtain rfl := Host.Outcome.next.inj h
    rfl
  | cons m ms ih =>
    rw [runMoves_cons] at h
    obtain ⟨u, hserve, hrest⟩ := andThen_eq_next h
    exact (ih hrest).trans (serve_std hserve)

end Sys2Proof.Machine

namespace Sys2Proof.Proofs

open Machine

/-- Settles O41: every step keeps the ROM, and so does every run, which power-on starts with the
contents of R136. -/
theorem romNeverChanges : Obligations.RomNeverChanges :=
  ⟨fun _ _ => step_std, fun _ _ _ => runMoves_std⟩

end Sys2Proof.Proofs
end

section
/-! SUPPORT. The encoder (30_encoding.md R81 to R92): encoding and decoding are inverse to each
other, the step on a word that decodes, and the words the assembler sends. -/

namespace Sys2Proof

open Machine Machine.Operands

/-! ### The words of the encoder as the spec writes them (30_encoding.md R83 to R86) -/

theorem encode_config {w : ℕ} (hw : w < 2 ^ 24) :
    encode (.config w) = 0x01000000#32 ||| BitVec.ofNat 32 w :=
  (configOpcode_or_ofNat_eq_wordC hw).symm

theorem encode_fill (b : Byte) : encode (.fill b) = 0x02000000#32 ||| Word.zext b :=
  (append_zero_or_zext 0x020000#24 b).symm

theorem encode_step (b : Byte) : encode (.step b) = 0x03000000#32 ||| Word.zext b :=
  (append_zero_or_zext 0x030000#24 b).symm

theorem encode_red (k : ℕ) :
    encode (.red k) = 0x07000000#32 ||| Word.zext (BitVec.ofNat 8 k) :=
  (append_zero_or_zext 0x070000#24 _).symm

theorem encode_tblrd_std (idx : Byte) :
    encode (.tblrd .std idx) = 0x08000000#32 ||| Word.zext idx :=
  (append_zero_or_zext 0x080000#24 idx).symm

theorem encode_tblrd_prefixTable (idx : Byte) :
    encode (.tblrd .prefixTable idx) = 0x08000100#32 ||| Word.zext idx :=
  (append_zero_or_zext 0x080001#24 idx).symm

theorem zext_ofNat_byte {n : ℕ} (h : n < 2 ^ 8) :
    Word.zext (BitVec.ofNat 8 n) = BitVec.ofNat 32 n := by
  rw [zext_eq_ofNat, BitVec.toNat_ofNat, Nat.mod_eq_of_lt h]

/-! ### Decoding the encoding (30_encoding.md section 5) -/

theorem decode_encode {i : Instr} (h : i.wellFormed = true) : decode (encode i) = .ok i := by
  cases i with
  | nop => decide
  | config w =>
    have hw : w < 2 ^ 24 := of_decide_eq_true h
    rw [encode_config hw, decode_config_word hw]
  | fill b => rw [encode_fill, decode_fill_word]
  | step b => rw [encode_step, decode_step_word]
  | restart => decide
  | clrerr => decide
  | mul => decide
  | red k =>
    have hk : k < 2 ^ 8 := of_decide_eq_true h
    rw [encode_red, zext_ofNat_byte hk, decode_red_word hk]
  | tblrd sel idx => exact decode_wordT_tblrd sel idx

/-! ### Encoding the decoded command (30_encoding.md sections 3 and 4) -/

/-- A decoder's test of reserved bits passes when they are zero, and then gives its command. -/
theorem wellFormed_and_encode_of_ifZero {n : ℕ} {reserved : BitVec n} {i j : Instr} {v : Word}
    (h : ifZero reserved i = .ok j)
    (hi : reserved = 0#n → i.wellFormed = true ∧ encode i = v) :
    j.wellFormed = true ∧ encode j = v := by
  by_cases hres : reserved = 0#n
  · obtain rfl : i = j := by simpa [ifZero, hres] using h
    exact hi hres
  · simp [ifZero, hres] at h

theorem selBit_selField (v : Word) : selBit (selField v) = v.extractLsb' 8 1 := by
  have hbit : v.extractLsb' 8 1 = BitVec.ofBool (v.getLsbD 8) := BitVec.eq_of_getLsbD_eq (by simp)
  rw [hbit, selField]
  cases v.getLsbD 8 <;> rfl

/-! A word with opcode `op` and zeros in the reserved bits is laid out as its format says (R81). -/

section

variable {v : Word} {op : Byte} (hop : (opc v).toNat = op.toNat)
include hop

theorem wordN_eq (hres : arg v = 0#24) : wordN op = v := by
  rw [wordN, ← BitVec.eq_of_toNat_eq hop, ← hres, opc_append_arg]

theorem wordC_eq : wordC op (wimm v) = v := by
  rw [wordC, wimm, BitVec.ofNat_toNat, BitVec.setWidth_eq, ← BitVec.eq_of_toNat_eq hop,
    opc_append_arg]

theorem wordB_eq (hres : reservedByteForm v = 0#16) : wordB op (byteField v) = v := by
  have hhigh : opc v ++ reservedByteForm v = v.extractLsb' 8 24 :=
    BitVec.extractLsb'_append_extractLsb'_eq_extractLsb' (len₁ := 16) (len₂ := 8) rfl
  rw [wordB, ← BitVec.eq_of_toNat_eq hop, ← hres, hhigh]
  exact BitVec.extractLsb'_append_extractLsb' (w := 24) (len := 8)

theorem wordT_eq (hres : reservedTableForm v = 0#15) :
    wordT op (selField v) (idxField v) = v := by
  have hhigh : opc v ++ reservedTableForm v = v.extractLsb' 9 23 :=
    BitVec.extractLsb'_append_extractLsb'_eq_extractLsb' (len₁ := 15) (len₂ := 8) rfl
  have hsel : v.extractLsb' 9 23 ++ v.extractLsb' 8 1 = v.extractLsb' 8 24 :=
    BitVec.extractLsb'_append_extractLsb'_eq_extractLsb' (len₁ := 1) (len₂ := 23) rfl
  rw [wordT, ← BitVec.eq_of_toNat_eq hop, ← hres, hhigh, selBit_selField, hsel]
  exact BitVec.extractLsb'_append_extractLsb' (w := 24) (len := 8)

end

theorem ofNat_countField (v : Word) : BitVec.ofNat 8 (countField v) = byteField v :=
  (BitVec.ofNat_toNat 8 _).trans (BitVec.setWidth_eq _)

/-- The decoder's case tree (30_encoding.md R90), each leaf read back by its format. -/
theorem wellFormed_and_encode_of_decode {v : Word} {i : Instr} (h : decode v = .ok i) :
    i.wellFormed = true ∧ encode i = v := by
  unfold decode at h
  split at h
  case h_1 hop =>
    exact wellFormed_and_encode_of_ifZero h fun hres => ⟨rfl, wordN_eq (op := 0x00#8) hop hres⟩
  case h_2 hop =>
    obtain rfl := Except.ok.inj h
    exact ⟨decide_eq_true (arg v).isLt, wordC_eq (op := 0x01#8) hop⟩
  case h_3 hop =>
    exact wellFormed_and_encode_of_ifZero h fun hres => ⟨rfl, wordB_eq (op := 0x02#8) hop hres⟩
  case h_4 hop =>
    exact wellFormed_and_encode_of_ifZero h fun hres => ⟨rfl, wordB_eq (op := 0x03#8) hop hres⟩
  case h_5 hop =>
    exact wellFormed_and_encode_of_ifZero h fun hres => ⟨rfl, wordN_eq (op := 0x04#8) hop hres⟩
  case h_6 hop =>
    exact wellFormed_and_encode_of_ifZero h fun hres => ⟨rfl, wordN_eq (op := 0x05#8) hop hres⟩
  case h_7 hop =>
    exact wellFormed_and_encode_of_ifZero h fun hres => ⟨rfl, wordN_eq (op := 0x06#8) hop hres⟩
  case h_8 hop =>
    refine wellFormed_and_encode_of_ifZero h fun hres => ?_
    refine ⟨decide_eq_true (v.extractLsb' 0 8).isLt, ?_⟩
    rw [encode, ofNat_countField, wordB_eq (op := 0x07#8) hop hres]
  case h_9 hop =>
    exact wellFormed_and_encode_of_ifZero h fun hres => ⟨rfl, wordT_eq (op := 0x08#8) hop hres⟩
  case h_10 => cases h

/-! ### The step on a word that decodes (30_encoding.md R90) -/

namespace Machine

theorem step_of_decode_ok {s : State} {v : Word} {rest : List HostMove} {i : Instr}
    (hp : s.pending = commandMove v :: rest) (h : decode v = .ok i) :
    step s = exec i (s.withPending rest) :=
  (step_of_command hp).trans (executeCommand_of_decode h _)

theorem step_of_idle {s : State} (hp : s.pending = []) : step s = .next s := by
  simp [step, serveNext, hp]

theorem decode_of_decodeTableWord {nbits w : ℕ} {i : Instr}
    (h : decodeTableWord nbits w = some i) : decode (BitVec.ofNat 32 (w % 2 ^ nbits)) = .ok i := by
  unfold decodeTableWord at h
  split at h
  · next j hj => rw [hj, Option.some.inj h]
  · cases h

/-- The move that issues a command is the first that a step takes. -/
theorem step_withFetchWord {s : State} {nbits w : ℕ} {i : Instr}
    (h : decodeTableWord nbits w = some i) : step (s.withFetchWord nbits w) = exec i s :=
  step_of_decode_ok (s := s.withFetchWord nbits w) rfl (decode_of_decodeTableWord h)

/-! ### What the assembler sends (30_encoding.md R91, R92) -/

theorem whenInRange_eq_ite {ok : Bool} {q : Prop} [Decidable q] (hok : ok = true ↔ q)
    (ms : List HostMove) : whenInRange ok ms = if q then some ms else none :=
  if_congr hok rfl rfl

/-- A statement with one operand, whose word is `v` where the operand is in range. -/
theorem whenInRange_issue {p q : Prop} [Decidable p] [Decidable q] (hpq : p ↔ q) {i : Instr}
    {v : Word} (hv : p → encode i = v) :
    whenInRange (decide p) [issue i] = if q then some [commandMove v] else none := by
  rw [whenInRange_eq_ite (decide_eq_true_iff.trans hpq)]
  by_cases hq : q
  · rw [if_pos hq, if_pos hq, issue, hv (hpq.mpr hq)]
  · rw [if_neg hq, if_neg hq]

theorem lt_two_pow_eight_iff (b : ℕ) : b < 2 ^ 8 ↔ b ≤ 0xFF := by omega

theorem allBytes_iff (bs : List ℕ) : allBytes bs = true ↔ ∀ b ∈ bs, b ≤ 0xFF := by
  simp [allBytes, Nat.lt_succ_iff]

end Machine

end Sys2Proof

namespace Sys2Proof.Proofs

open Machine

/-- Settles O12: each command's word is opcode OR operand, and the decoder reads both back. -/
theorem decodeOfEncodeIsTheCommand : Obligations.DecodeOfEncodeIsTheCommand :=
  fun _ => decode_encode

/-- Settles O13: at each leaf of the decoder the fields read, with zeros in the reserved bits, make
up the whole word. -/
theorem encodeOfDecodeIsTheWord : Obligations.EncodeOfDecodeIsTheWord :=
  fun _ _ => wellFormed_and_encode_of_decode

/-- Settles O15: each of the ten words is the encoding of its command; of the other two, one has a
one in a reserved bit of FILL's format and one a reserved opcode. -/
theorem sampleWordsDecode : Obligations.SampleWordsDecode :=
  ⟨decode_encode (i := .nop) rfl, decode_encode (i := .config 16777215) rfl,
    decode_encode (i := .fill 0x31#8) rfl, decode_encode (i := .step 0x61#8) rfl,
    decode_encode (i := .restart) rfl, decode_encode (i := .clrerr) rfl,
    decode_encode (i := .mul) rfl, decode_encode (i := .red 255) rfl,
    decode_encode (i := .tblrd .std 0x80#8) rfl,
    decode_encode (i := .tblrd .prefixTable 0x31#8) rfl,
    decode_of_reserved_one (.fill 0#8) rfl (by decide), decode_of_reserved_opcode (by decide)⟩

/-- Settles O17: the service of a CMD write is the decoded command or the error record. -/
theorem stepRunsTheDecodedCommand : Obligations.StepRunsTheDecodedCommand :=
  ⟨fun _ _ _ _ => step_of_decode_ok, fun _ _ _ _ => step_of_decode_error, fun _ => step_of_idle,
    fun _ _ _ _ => step_withFetchWord⟩

/-- Settles O52: statement by statement, the range check and the word of the operand. -/
theorem assemblerEmitsTheListedWords : Obligations.AssemblerEmitsTheListedWords := by
  refine ⟨rfl, rfl, rfl, rfl, fun w => ?_, fun b => ?_, fun b => ?_, fun k => ?_, fun i => ?_,
    fun i => ?_, fun bs h => ?_, fun bs h => ?_, fun v => ?_, fun off v => ?_, fun off => ?_,
    fun a b => ?_, rfl, rfl⟩
  · exact whenInRange_issue (by omega) encode_config
  · exact whenInRange_issue (lt_two_pow_eight_iff b) fun hb => by
      rw [encode_fill, zext_ofNat_byte hb]
  · exact whenInRange_issue (lt_two_pow_eight_iff b) fun hb => by
      rw [encode_step, zext_ofNat_byte hb]
  · exact whenInRange_issue (lt_two_pow_eight_iff k) fun hk => by
      rw [encode_red, zext_ofNat_byte hk]
  · exact whenInRange_issue (lt_two_pow_eight_iff i) fun hi => by
      rw [encode_tblrd_std, zext_ofNat_byte hi]
  · exact whenInRange_issue (lt_two_pow_eight_iff i) fun hi => by
      rw [encode_tblrd_prefixTable, zext_ofNat_byte hi]
  · have hall : allBytes bs = true := (allBytes_iff bs).mpr h
    exact ⟨if_pos hall, if_pos hall⟩
  · have hsome : ¬ allBytes bs = true := by simpa [allBytes_iff] using h
    exact ⟨if_neg hsome, if_neg hsome⟩
  · exact whenInRange_eq_ite decide_eq_true_iff _
  · refine whenInRange_eq_ite ?_ _
    rw [Bool.and_eq_true, decide_eq_true_iff, decide_eq_true_iff, lt_two_pow_eight_iff]
  · exact whenInRange_eq_ite (decide_eq_true_iff.trans (lt_two_pow_eight_iff off)) _
  · refine whenInRange_eq_ite ?_ _
    rw [Bool.and_eq_true, decide_eq_true_iff, decide_eq_true_iff]

end Sys2Proof.Proofs
end

section
/-! SUPPORT. What any command can answer, said once: the error of the phase table, the state an
admitted command leaves, or the fault of an absent window slot (43_control.md R206, log entry 7);
and from it which registers a command writes and how the phase changes. -/

namespace Sys2Proof.Machine

open Claims

/-! ### The three outcomes of a command -/

/-- The entry TBLRD reads (41_tables.md R140). -/
def State.tableWord (s : State) : TableSel → Byte → Word
  | .std, idx => s.stdEntry idx
  | .prefixTable, idx => s.prefixEntry idx

/-- The state that command `i` leaves where the phase table allows it and, for FILL and STEP, slot
POS exists: `exec_of_ok_of_slot`. -/
def State.completed (s : State) : Instr → State
  | .nop => s
  | .config w => (s.loadConstants w).startStream
  | .fill b => s.filled b
  | .step b => s.stepped b
  | .restart => s.startStream
  | .clrerr => s.clearError
  | .mul => s.setAuxres (Gf2.gf2mul s.opa s.opb)
  | .red k => s.setAuxres (Gf2.reduceN k s.opa)
  | .tblrd sel idx => s.setAuxres (s.tableWord sel idx)

section

variable {i : Instr} {s : State} (hok : phaseTable s.cfg.wmax i s.phase = .none)
include hok

theorem exec_of_ok_of_slot (hslot : WritesWindow i → s.pos.toNat < s.cfg.wmax.toNat) :
    exec i s = .next (s.completed i) := by
  cases i with
  | nop => rfl
  | config w =>
    obtain ⟨hpos, hmax⟩ := (phaseTable_config_eq_none_iff ..).mp hok
    exact execConfig_of_in_range hpos hmax
  | fill b => exact execFill_of_slot b ((phaseTable_fill_eq_none_iff ..).mp hok) (hslot trivial)
  | step b => exact execStep_of_slot b ((phaseTable_step_eq_none_iff ..).mp hok) (hslot trivial)
  | restart => exact execRestart_of_configured ((phaseTable_restart_eq_none_iff ..).mp hok)
  | clrerr => rfl
  | mul => rfl
  | red k => rfl
  | tblrd sel idx =>
    cases sel with
    | std => rfl
    | prefixTable =>
      exact execTblrd_prefixTable_of_configured idx
        ((phaseTable_tblrd_prefixTable_eq_none_iff ..).mp hok)

theorem exec_of_ok_of_no_slot (hi : WritesWindow i) (hge : s.cfg.wmax.toNat ≤ s.pos.toNat) :
    exec i s = .fault .windowSlotAbsent := by
  cases i with
  | fill b => exact execFill_of_no_slot b ((phaseTable_fill_eq_none_iff ..).mp hok) hge
  | step b => exact execStep_of_no_slot b ((phaseTable_step_eq_none_iff ..).mp hok) hge
  | _ => exact hi.elim

end

/-- What a command can answer. -/
theorem exec_next {i : Instr} {s t : State} (h : exec i s = .next t) :
    (phaseTable s.cfg.wmax i s.phase ≠ .none ∧
      t = s.recordError (phaseTable s.cfg.wmax i s.phase)) ∨
    (phaseTable s.cfg.wmax i s.phase = .none ∧
      (WritesWindow i → s.pos.toNat < s.cfg.wmax.toNat) ∧ t = s.completed i) := by
  by_cases hok : phaseTable s.cfg.wmax i s.phase = .none
  · have hslot : WritesWindow i → s.pos.toNat < s.cfg.wmax.toNat := fun hi => by
      by_contra hge
      rw [exec_of_ok_of_no_slot hok hi (Nat.le_of_not_lt hge)] at h
      cases h
    exact .inr ⟨hok, hslot,
      Host.Outcome.next.inj (h.symm.trans (exec_of_ok_of_slot hok hslot))⟩
  · exact .inl ⟨hok, Host.Outcome.next.inj (h.symm.trans (exec_of_phaseTable_error hok))⟩

/-- What a fault of a command is. -/
theorem exec_fault_iff {i : Instr} {s : State} {f : Fault} : exec i s = .fault f ↔
    f = .windowSlotAbsent ∧ s.cfg.wmax.toNat ≤ s.pos.toNat ∧
      phaseTable s.cfg.wmax i s.phase = .none ∧ WritesWindow i := by
  constructor
  · intro h
    by_cases hok : phaseTable s.cfg.wmax i s.phase = .none
    · by_cases hslot : WritesWindow i → s.pos.toNat < s.cfg.wmax.toNat
      · rw [exec_of_ok_of_slot hok hslot] at h
        cases h
      · obtain ⟨hi, hge⟩ := Classical.not_imp.mp hslot
        rw [exec_of_ok_of_no_slot hok hi (Nat.le_of_not_lt hge)] at h
        exact ⟨(Host.Outcome.fault.inj h).symm, Nat.le_of_not_lt hge, hok, hi⟩
    · rw [exec_of_phaseTable_error hok] at h
      cases h
  · rintro ⟨rfl, hge, hok, hi⟩
    exact exec_of_ok_of_no_slot hok hi hge

/-- The commands that need slot POS: FILL in phase FILL and STEP in phase RUN. -/
theorem ok_and_writesWindow_iff (wmax : Size) (i : Instr) (p : Phase) :
    phaseTable wmax i p = .none ∧ WritesWindow i ↔
      p = .fill ∧ (∃ b, i = .fill b) ∨ p = .run ∧ ∃ b, i = .step b := by
  cases i with
  | fill b => simp [phaseTable_fill_eq_none_iff, WritesWindow]
  | step b => simp [phaseTable_step_eq_none_iff, WritesWindow]
  | _ => simp [WritesWindow]

/-! ### The writers of each register (10_state.md sections 2 and 3) -/

namespace State

variable (s : State) (i : Instr)

@[simp] theorem completed_opa : (s.completed i).opa = s.opa := by cases i <;> rfl
@[simp] theorem completed_opb : (s.completed i).opb = s.opb := by cases i <;> rfl
@[simp] theorem completed_std : (s.completed i).std = s.std := by cases i <;> rfl
@[simp] theorem completed_cfg : (s.completed i).cfg = s.cfg := by cases i <;> rfl
@[simp] theorem completed_epoch : (s.completed i).epoch = s.epoch := by cases i <;> rfl
@[simp] theorem completed_pending : (s.completed i).pending = s.pending := by cases i <;> rfl
@[simp] theorem completed_reads : (s.completed i).reads = s.reads := by cases i <;> rfl

variable {i}

/-- Only CONFIG loads the constants of a window size. -/
theorem completed_constants (h : ∀ w, i ≠ .config w) :
    (s.completed i).wsize = s.wsize ∧ (s.completed i).xpow = s.xpow ∧
      (s.completed i).crcxor = s.crcxor ∧ (s.completed i).prefixTable = s.prefixTable := by
  cases i with
  | config w => exact absurd rfl (h w)
  | _ => exact ⟨rfl, rfl, rfl, rfl⟩

theorem completed_lastOut (h : ∀ b, i ≠ .step b) : (s.completed i).lastOut = s.lastOut := by
  cases i with
  | step b => exact absurd rfl (h b)
  | _ => rfl

theorem completed_auxres (hmul : i ≠ .mul) (hred : ∀ k, i ≠ .red k)
    (htblrd : ∀ sel idx, i ≠ .tblrd sel idx) : (s.completed i).auxres = s.auxres := by
  cases i with
  | mul => exact absurd rfl hmul
  | red k => exact absurd rfl (hred k)
  | tblrd sel idx => exact absurd rfl (htblrd sel idx)
  | _ => rfl

theorem completed_stream (hconfig : ∀ w, i ≠ .config w) (hfill : ∀ b, i ≠ .fill b)
    (hstep : ∀ b, i ≠ .step b) (hrestart : i ≠ .restart) :
    (s.completed i).acc = s.acc ∧ (s.completed i).pos = s.pos ∧
      (s.completed i).phase = s.phase := by
  cases i with
  | config w => exact absurd rfl (hconfig w)
  | fill b => exact absurd rfl (hfill b)
  | step b => exact absurd rfl (hstep b)
  | restart => exact absurd rfl hrestart
  | _ => exact ⟨rfl, rfl, rfl⟩

end State

/-! ### How the phase changes (70_reset_and_hazards.md R260, 42_engine.md R162) -/

/-- The first window is about to be complete: a FILL of its last byte enters RUN. -/
def State.LastFill (s : State) : Prop := s.phase = .fill ∧ s.pos.toNat + 1 = s.wsize.toNat

section

variable {s t : State}

/-- A command keeps the phase, starts a stream or loads the last byte of the first window. -/
theorem exec_phase {i : Instr} (h : exec i s = .next t) :
    t.phase = s.phase ∨ t.phase = .fill ∨ t.phase = .run ∧ s.LastFill ∧ ∃ b, i = .fill b := by
  rcases exec_next h with ⟨-, rfl⟩ | ⟨hok, -, rfl⟩
  · exact .inl (s.recordError_phase _)
  · cases i with
    | config w => exact .inr (.inl rfl)
    | restart => exact .inr (.inl rfl)
    | fill b =>
      have hp := (phaseTable_fill_eq_none_iff ..).mp hok
      by_cases hlast : s.pos.toNat + 1 = s.wsize.toNat
      · exact .inr (.inr ⟨if_pos hlast, ⟨hp, hlast⟩, b, rfl⟩)
      · exact .inr (.inl (if_neg hlast))
    | _ => exact .inl rfl

theorem hostWrite_phase {off : BitVec 8} {v : Word} (h : hostWrite off v s = .next t) :
    t.phase = s.phase ∨ t.phase = .fill ∨
      t.phase = .run ∧ s.LastFill ∧ off = 0x00#8 ∧ ∃ b, decode v = .ok (.fill b) := by
  rcases hostWrite_next h with ⟨hoff, hcmd⟩ | ⟨-, rfl⟩ | ⟨-, rfl⟩ | rfl
  · rcases executeCommand_next hcmd with ⟨i, hdec, hexec⟩ | ⟨e, -, rfl⟩
    · refine (exec_phase hexec).imp_right (Or.imp_right ?_)
      rintro ⟨hrun, hlast, b, rfl⟩
      exact ⟨hrun, hlast, hoff, b, hdec⟩
    · exact .inl (s.recordError_phase _)
  · exact .inl rfl
  · exact .inl rfl
  · exact .inl rfl

theorem serve_phase {m : HostMove} (h : serve m s = .next t) :
    t.phase = s.phase ∨ t.phase = .fill ∨ m = .reset ∧ t.phase = .unconfigured ∨
      t.phase = .run ∧ s.LastFill ∧
        ∃ v b, m = .write 32 0x00#8 v ∧ decode v = .ok (.fill b) := by
  rcases serve_next h with ⟨_, _, -, -, rfl⟩ | ⟨width, off, v, rfl, hadmit, hwrite⟩ | ⟨hm, rfl⟩
  · exact .inl rfl
  · obtain ⟨rfl, -⟩ := (accessRefusal_eq_none_iff width off).mp hadmit
    refine (hostWrite_phase hwrite).imp_right (Or.imp_right fun hrun => .inr ?_)
    obtain ⟨hrun, hlast, rfl, b, hdec⟩ := hrun
    exact ⟨hrun, hlast, v, b, rfl, hdec⟩
  · exact .inr (.inr (.inl ⟨hm, rfl⟩))

theorem step_phase (h : step s = .next t) :
    t.phase = s.phase ∨ t.phase = .fill ∨
      (∃ rest, s.pending = .reset :: rest) ∧ t.phase = .unconfigured ∨
      t.phase = .run ∧ s.LastFill ∧
        ∃ v b rest, s.pending = .write 32 0x00#8 v :: rest ∧ decode v = .ok (.fill b) := by
  rcases step_next h with ⟨-, rfl⟩ | ⟨m, rest, hp, hserve⟩
  · exact .inl rfl
  · refine (serve_phase hserve).imp_right (Or.imp_right (Or.imp ?_ ?_))
    · rintro ⟨rfl, hphase⟩
      exact ⟨⟨rest, hp⟩, hphase⟩
    · rintro ⟨hrun, hlast, v, b, rfl, hdec⟩
      exact ⟨hrun, hlast, v, b, rest, hp, hdec⟩

end

end Sys2Proof.Machine

namespace Sys2Proof.Proofs

open Machine

/-- Settles O35: of the three outcomes of a command the fault is the one at an absent slot. -/
theorem commandsFaultOnlyAtAbsentSlots : Obligations.CommandsFaultOnlyAtAbsentSlots := by
  intro i s f
  rw [exec_fault_iff, ok_and_writesWindow_iff]

/-- Settles O37: a failed command writes the error record alone, and a completed one leaves
`s.completed i`. -/
theorem eachRegisterHasItsWriters : Obligations.EachRegisterHasItsWriters := by
  intro i s t h
  rcases exec_next h with ⟨-, rfl⟩ | ⟨-, -, rfl⟩
  · simp
  · exact ⟨s.completed_constants, s.completed_lastOut, s.completed_auxres, s.completed_stream,
      by simp⟩

/-- Settles O40: a step keeps the phase, starts a stream, resets or loads the last byte of the first
window. -/
theorem phasesChangeOnlyAsTheSpecSays : Obligations.PhasesChangeOnlyAsTheSpecSays := by
  intro s t h
  rcases step_phase h with hsame | hfill | ⟨hreset, hun⟩ | ⟨hrun, ⟨hp, hlast⟩, hmove⟩
  · exact ⟨fun hne heq => absurd (hsame ▸ heq) hne, fun hne heq => absurd (hsame ▸ heq) hne⟩
  · exact ⟨by simp [hfill], by simp [hfill]⟩
  · exact ⟨fun _ _ => hreset, by simp [hun]⟩
  · exact ⟨by simp [hrun], fun _ _ => ⟨hp, hlast, hmove⟩⟩

end Sys2Proof.Proofs
end

section
/-! SUPPORT. The invariant (10_state.md sections 2 to 4, 42_engine.md R171, R172): it holds after
reset, every step keeps it, and no step from a state that meets it faults. -/

namespace Sys2Proof.Machine

open Claims

/-! ### The meaning of each phase -/

namespace State

variable {s : State}

theorem phaseInv_of_unconfigured (hp : s.phase = .unconfigured)
    (h : s.wsize = 0#24 ∧ s.pos = 0#24 ∧ s.acc = 0#32 ∧ s.lastOut = 0#32 ∧ s.xpow = 0#32 ∧
      s.crcxor = 0#32) : s.PhaseInv := by
  rwa [PhaseInv, hp]

theorem phaseInv_of_fill (hp : s.phase = .fill) (hc : s.Configured)
    (hw : s.Written s.pos.toNat) (hacc : s.acc = crc0 s.loadedBytes) : s.PhaseInv := by
  rw [PhaseInv, hp]
  exact ⟨hc, hw, hacc⟩

theorem phaseInv_of_run (hp : s.phase = .run) (hc : s.Configured)
    (hw : s.Written s.wsize.toNat) (hacc : s.acc = crc0 s.window) : s.PhaseInv := by
  rw [PhaseInv, hp]
  exact ⟨hc, hw, hacc⟩

theorem PhaseInv.of_unconfigured (h : s.PhaseInv) (hp : s.phase = .unconfigured) :
    s.wsize = 0#24 ∧ s.pos = 0#24 ∧ s.acc = 0#32 ∧ s.lastOut = 0#32 ∧ s.xpow = 0#32 ∧
      s.crcxor = 0#32 := by
  rwa [PhaseInv, hp] at h

theorem PhaseInv.of_fill (h : s.PhaseInv) (hp : s.phase = .fill) :
    s.Configured ∧ s.Written s.pos.toNat ∧ s.acc = crc0 s.loadedBytes := by
  rwa [PhaseInv, hp] at h

theorem PhaseInv.of_run (h : s.PhaseInv) (hp : s.phase = .run) :
    s.Configured ∧ s.Written s.wsize.toNat ∧ s.acc = crc0 s.window := by
  rwa [PhaseInv, hp] at h

/-- Slots written since reset hold the bytes that are read there. -/
theorem Written.read_eq {n i : ℕ} (h : s.Written n) (hi : i < n) :
    s.win.read i = some (s.winByte i) := by
  obtain ⟨b, hb⟩ := Option.isSome_iff_exists.mp (h i hi)
  rw [hb, winByte_of_read hb]

theorem Written.write {t : State} {n j : ℕ} {b : Byte} (h : s.Written n)
    (ht : t.win = s.win.write j b) : t.Written n := by
  intro i hi
  rw [ht, Memory.read_write]
  split
  · rfl
  · exact h i hi

/-! ### The bytes loaded of a new stream -/

theorem HoldsFirst.loadedBytes_eq {m : List Byte} (h : s.HoldsFirst m)
    (hlt : m.length < s.wsize.toNat) : s.loadedBytes = m := by
  have hpos := h.pos_eq_length hlt
  refine List.ext_getElem (by simp [loadedBytes, hpos]) fun i _ hi => ?_
  simp only [loadedBytes, List.getElem_map, List.getElem_range, h.winByte_eq hi]

theorem HoldsFirst.written {m : List Byte} (h : s.HoldsFirst m) : s.Written m.length := by
  intro i hi
  rw [h.slots i hi, List.getElem?_eq_getElem hi, Option.isSome_some]

/-- Up to W bytes of a stream, loaded one by one, give FILL or RUN its meaning. -/
theorem HoldsFirst.phaseInv {m : List Byte} (h : s.HoldsFirst m) : s.PhaseInv := by
  rcases Nat.lt_or_eq_of_le h.length_le with hlt | hfull
  · refine phaseInv_of_fill (h.phase_eq_fill hlt) h.configured ?_ ?_
    · rw [h.pos_eq_length hlt]
      exact h.written
    · rw [h.acc_eq, h.loadedBytes_eq hlt]
  · refine phaseInv_of_run (h.phase_eq.trans (if_pos hfull)) h.configured ?_ ?_
    · rw [← hfull]
      exact h.written
    · rw [h.acc_eq, h.window_eq hfull]

theorem Inv.holdsFirst_loadedBytes (hinv : s.Inv) (hp : s.phase = .fill) :
    s.HoldsFirst s.loadedBytes := by
  obtain ⟨hc, hw, hacc⟩ := hinv.phaseInv.of_fill hp
  have hlen : s.loadedBytes.length = s.pos.toNat := by simp [loadedBytes]
  have hlt : s.loadedBytes.length < s.wsize.toNat := hlen ▸ hc.pos_lt
  refine ⟨hinv.rom, hc, Nat.le_of_lt hlt, fun i hi => ?_, hacc, ?_, ?_⟩
  · rw [hw.read_eq (hlen ▸ hi), List.getElem?_eq_getElem hi]
    simp [loadedBytes]
  · rw [hlen, Nat.mod_eq_of_lt hc.pos_lt]
  · rw [hp, if_neg (Nat.ne_of_lt hlt)]

theorem Configured.stepped (h : s.Configured) (b : Byte) : (s.stepped b).Configured :=
  { h with pos_lt := nextPos_lt h.pos_lt }

/-- In phase RUN the window stays written and ACC its un-complemented CRC over a STEP. -/
theorem Inv.phaseInv_stepped (hinv : s.Inv) (hp : s.phase = .run) (b : Byte) :
    (s.stepped b).PhaseInv := by
  obtain ⟨hc, hw, hacc⟩ := hinv.phaseInv.of_run hp
  refine phaseInv_of_run hp (hc.stepped b) (hw.write rfl) ?_
  rw [hc.acc_stepped hinv.rom hacc, window_stepped b hc.pos_lt]

/-! ### The updates that keep the invariant -/

/-- Position POS is always below WMAX (10_state.md R24). -/
theorem Inv.pos_lt_wmax (hinv : s.Inv) : s.pos.toNat < s.cfg.wmax.toNat := by
  by_cases hp : s.phase = .unconfigured
  · obtain ⟨-, hpos, -⟩ := hinv.phaseInv.of_unconfigured hp
    have hne : s.cfg.wmax ≠ 0#24 := by simpa [Config.wf] using hinv.params
    rw [hpos]
    exact Nat.pos_of_ne_zero fun h => hne (BitVec.eq_of_toNat_eq h)
  · exact (hinv.configured hp).pos_lt_wmax

/-- The error record must be in order; the operands, AUXRES and the host's own fields take no part
in the invariant. -/
theorem Inv.withOthers (hinv : s.Inv) {err : Bool} {errcode : ErrCode} {opa opb auxres : Word}
    {pending : List HostMove} {reads : List Word} (herr : err = false ↔ errcode = .none) :
    ({ s with
      err := err, errcode := errcode, opa := opa, opb := opb, auxres := auxres
      pending := pending, reads := reads } : State).Inv where
  params := hinv.params
  rom := hinv.rom
  winForm := hinv.winForm
  winSlots := hinv.winSlots
  errRecord := herr
  phaseInv := by
    cases hp : s.phase with
    | unconfigured => exact phaseInv_of_unconfigured rfl (hinv.phaseInv.of_unconfigured hp)
    | fill =>
      obtain ⟨hc, hw, hacc⟩ := hinv.phaseInv.of_fill hp
      exact phaseInv_of_fill rfl { hc with } hw hacc
    | run =>
      obtain ⟨hc, hw, hacc⟩ := hinv.phaseInv.of_run hp
      exact phaseInv_of_run rfl { hc with } hw hacc

/-- An error is recorded with its code, so the record stays in order (10_state.md R22). -/
theorem Inv.recordError (hinv : s.Inv) {c : ErrCode} (hc : c ≠ .none) : (s.recordError c).Inv := by
  cases h : s.err with
  | true => rwa [recordError_of_err s c h]
  | false =>
    rw [recordError_of_no_err s c h]
    exact hinv.withOthers (by simp [hc])

/-- An update of the stream registers, and of the window at POS at most, keeps the invariant where
the new phase has its meaning. -/
theorem Inv.of_phaseInv {t : State} (hinv : s.Inv) (hcfg : t.cfg = s.cfg) (hstd : t.std = s.std)
    (herr : t.err = s.err) (hcode : t.errcode = s.errcode)
    (hwin : t.win = s.win ∨ ∃ b, t.win = s.win.write s.pos.toNat b) (hphase : t.PhaseInv) :
    t.Inv where
  params := hcfg ▸ hinv.params
  rom := hstd.trans hinv.rom
  winForm := by
    rcases hwin with hwin | ⟨b, hwin⟩
    · rw [hwin]
      exact hinv.winForm
    · rw [hwin]
      exact Memory.wf_write _ b hinv.winForm
  winSlots := by
    intro c hc
    rw [hcfg]
    rcases hwin with hwin | ⟨b, hwin⟩
    · exact hinv.winSlots c (hwin ▸ hc)
    · rcases Memory.mem_write (hwin ▸ hc) with rfl | hold
      · exact hinv.pos_lt_wmax
      · exact hinv.winSlots c hold
  errRecord := by
    rw [herr, hcode]
    exact hinv.errRecord
  phaseInv := hphase

/-- Reset puts every register the invariant speaks of at its reset value (10_state.md R40). -/
theorem inv_powerOn {c : Config} (hc : c.wf = true) : (powerOn c).Inv where
  params := hc
  rom := rfl
  winForm := rfl
  winSlots := nofun
  errRecord := iff_of_true rfl rfl
  phaseInv := phaseInv_of_unconfigured rfl ⟨rfl, rfl, rfl, rfl, rfl, rfl⟩

theorem Inv.afterReset (hinv : s.Inv) : s.afterReset.Inv where
  params := hinv.params
  rom := hinv.rom
  winForm := rfl
  winSlots := nofun
  errRecord := iff_of_true rfl rfl
  phaseInv := phaseInv_of_unconfigured rfl ⟨rfl, rfl, rfl, rfl, rfl, rfl⟩

theorem Inv.withPending (hinv : s.Inv) (ms : List HostMove) : (s.withPending ms).Inv :=
  hinv.withOthers hinv.errRecord

end State

/-! ### Every step keeps the invariant -/

section

variable {s t : State}

theorem exec_inv {i : Instr} (hinv : s.Inv) (h : exec i s = .next t) : t.Inv := by
  rcases exec_next h with ⟨hcode, rfl⟩ | ⟨hok, -, rfl⟩
  · exact hinv.recordError hcode
  · cases i with
    | nop => exact hinv
    | config w =>
      obtain ⟨hpos, hmax⟩ := (phaseTable_config_eq_none_iff ..).mp hok
      exact hinv.of_phaseInv rfl rfl rfl rfl (.inl rfl)
        (State.holdsFirst_nil_startStream (s := s.loadConstants w) hinv.rom
          (s.configured_of_config hpos hmax)).phaseInv
    | fill b =>
      have hp := (phaseTable_fill_eq_none_iff ..).mp hok
      have hfirst := hinv.holdsFirst_loadedBytes hp
      have hlt : s.loadedBytes.length < s.wsize.toNat := by
        simpa [State.loadedBytes] using hfirst.configured.pos_lt
      exact hinv.of_phaseInv rfl rfl rfl rfl (.inr ⟨b, rfl⟩) (hfirst.filled hlt b).phaseInv
    | step b =>
      have hp := (phaseTable_step_eq_none_iff ..).mp hok
      exact hinv.of_phaseInv rfl rfl rfl rfl (.inr ⟨b, rfl⟩) (hinv.phaseInv_stepped hp b)
    | restart =>
      have hp := (phaseTable_restart_eq_none_iff ..).mp hok
      exact hinv.of_phaseInv rfl rfl rfl rfl (.inl rfl)
        (State.holdsFirst_nil_startStream hinv.rom (hinv.configured hp).startStream).phaseInv
    | clrerr => exact hinv.withOthers (by decide)
    | mul => exact hinv.withOthers hinv.errRecord
    | red k => exact hinv.withOthers hinv.errRecord
    | tblrd sel idx => exact hinv.withOthers hinv.errRecord

theorem executeCommand_inv {v : Word} (hinv : s.Inv) (h : executeCommand v s = .next t) :
    t.Inv := by
  rcases executeCommand_next h with ⟨i, -, hexec⟩ | ⟨e, -, rfl⟩
  · exact exec_inv hinv hexec
  · exact hinv.recordError (by decide)

theorem hostWrite_inv {off : BitVec 8} {v : Word} (hinv : s.Inv)
    (h : hostWrite off v s = .next t) : t.Inv := by
  rcases hostWrite_next h with ⟨-, hcmd⟩ | ⟨-, rfl⟩ | ⟨-, rfl⟩ | rfl
  · exact executeCommand_inv hinv hcmd
  · exact hinv.withOthers hinv.errRecord
  · exact hinv.withOthers hinv.errRecord
  · exact hinv

theorem serve_inv {m : HostMove} (hinv : s.Inv) (h : serve m s = .next t) : t.Inv := by
  rcases serve_next h with ⟨_, _, -, -, rfl⟩ | ⟨_, _, _, -, -, hwrite⟩ | ⟨-, rfl⟩
  · exact hinv.withOthers hinv.errRecord
  · exact hostWrite_inv hinv hwrite
  · exact hinv.afterReset

theorem step_inv (hinv : s.Inv) (h : step s = .next t) : t.Inv := by
  rcases step_next h with ⟨-, rfl⟩ | ⟨m, rest, -, hserve⟩
  · exact hinv
  · exact serve_inv (hinv.withPending rest) hserve

end

/-! ### No step faults (10_state.md R41, 20_memory.md R60) -/

section

variable {s : State} {f : Fault}

theorem exec_ne_fault (hinv : s.Inv) (i : Instr) : exec i s ≠ .fault f := by
  intro h
  obtain ⟨-, hge, -⟩ := exec_fault_iff.mp h
  exact Nat.not_lt.mpr hge hinv.pos_lt_wmax

theorem executeCommand_ne_fault (hinv : s.Inv) (v : Word) : executeCommand v s ≠ .fault f := by
  cases hd : decode v with
  | ok i =>
    rw [executeCommand_of_decode hd]
    exact exec_ne_fault hinv i
  | error e =>
    rw [executeCommand_of_error hd]
    exact nofun

theorem hostWrite_ne_fault (hinv : s.Inv) (off : BitVec 8) (v : Word) :
    hostWrite off v s ≠ .fault f := by
  by_cases hcmd : off = 0x00#8
  · subst hcmd; exact executeCommand_ne_fault hinv v
  by_cases hopa : off = 0x24#8
  · subst hopa; exact nofun
  by_cases hopb : off = 0x28#8
  · subst hopb; exact nofun
  · rw [hostWrite_of_ignored v s hcmd hopa hopb]
    exact nofun

theorem serve_ne_fault (hinv : s.Inv) (m : HostMove) : serve m s ≠ .fault f := by
  cases m with
  | read width off => cases ha : accessRefusal width off <;> simp [serve, ha]
  | write width off v =>
    cases ha : accessRefusal width off with
    | none => simpa [serve, ha] using hostWrite_ne_fault hinv off v
    | some r => simp [serve, ha]
  | reset => exact nofun

theorem stepSafe_of_inv (hinv : s.Inv) : s.StepSafe := by
  intro f
  cases hp : s.pending with
  | nil =>
    rw [step_of_idle hp]
    exact nofun
  | cons m rest =>
    rw [step_of_pending hp]
    exact serve_ne_fault (hinv.withPending rest) m

end

end Sys2Proof.Machine

namespace Sys2Proof.Proofs

open Machine

/-- Settles O42: after power-on every register is at its reset value and no slot is listed. -/
theorem invariantHoldsAtReset : Obligations.InvariantHoldsAtReset :=
  ⟨fun _ => State.inv_powerOn, State.inv_powerOn (by decide)⟩

/-- Settles O43: a FILL appends its byte to the bytes loaded, a STEP slides the window by its byte,
CONFIG and RESTART start with no byte loaded, and all else is outside the phase's meaning. -/
theorem stepKeepsTheInvariant : Obligations.StepKeepsTheInvariant :=
  fun _ _ => step_inv

/-- Settles O44: POS is always below WMAX, so no window slot is absent, and what does not complete
is a refused access. -/
theorem invariantStatesNeverFault : Obligations.InvariantStatesNeverFault := by
  intro s hinv
  refine ⟨stepSafe_of_inv hinv, ?_⟩
  cases h : step s with
  | next t => exact .inl ⟨t, rfl⟩
  | fault f => exact absurd h (stepSafe_of_inv hinv f)
  | refused r => exact .inr (oddAccessesHaveNoStep.2 s r h)

end Sys2Proof.Proofs
end

section
/-! SUPPORT. The unspecified contents of WIN and PREFIX (10_state.md R40, R41; log entries 4 to 6):
in a state that meets the invariant nothing the block does depends on which free values they are. -/

namespace Sys2Proof.Machine

open Claims

namespace State

/-- The state in which the unwritten slots of WIN and an unwritten PREFIX hold the free values of
the `e`-th reset (log entry 6), and nothing else is changed. -/
def withEpoch (e : ℕ) (s : State) : State := { s with epoch := e }

variable {s : State} (e : ℕ)

@[simp] theorem withEpoch_pos : (s.withEpoch e).pos = s.pos := rfl

@[simp] theorem recordError_withEpoch (c : ErrCode) :
    (s.withEpoch e).recordError c = (s.recordError c).withEpoch e := by
  cases h : s.err with
  | true => rw [recordError_of_err s c h, recordError_of_err (s.withEpoch e) c h]
  | false =>
    rw [recordError_of_no_err s c h, recordError_of_no_err (s.withEpoch e) c h]
    rfl

/-- A configured block has written PREFIX. -/
theorem Configured.prefixEntry_withEpoch (h : s.Configured) (i : Byte) :
    (s.withEpoch e).prefixEntry i = s.prefixEntry i := by
  rw [prefixEntry_of_some h.prefix_eq, prefixEntry_of_some (s := s.withEpoch e) h.prefix_eq]

theorem Written.winByte_withEpoch {n i : ℕ} (h : s.Written n) (hi : i < n) :
    (s.withEpoch e).winByte i = s.winByte i :=
  winByte_of_read (s := s.withEpoch e) (h.read_eq hi)

/-- STEP reads the slot at POS and one entry of PREFIX, both written in phase RUN. -/
theorem Inv.stepped_withEpoch (hinv : s.Inv) (hp : s.phase = .run) (b : Byte) :
    (s.withEpoch e).stepped b = (s.stepped b).withEpoch e := by
  obtain ⟨hc, hw, -⟩ := hinv.phaseInv.of_run hp
  have hacc : ((s.withEpoch e).stepped b).acc = (s.stepped b).acc := by
    rw [stepped_acc, stepped_acc, withEpoch_pos, hw.winByte_withEpoch e hc.pos_lt, slideAcc,
      slideAcc, hc.prefixEntry_withEpoch]
    rfl
  calc (s.withEpoch e).stepped b
    _ = { (s.stepped b).withEpoch e with acc := ((s.withEpoch e).stepped b).acc } := rfl
    _ = (s.stepped b).withEpoch e := by rw [hacc]; rfl

/-- STEP and TBLRD are the commands that read WIN or PREFIX. -/
theorem Inv.completed_withEpoch (hinv : s.Inv) {i : Instr}
    (hok : phaseTable s.cfg.wmax i s.phase = .none) :
    (s.withEpoch e).completed i = (s.completed i).withEpoch e := by
  cases i with
  | step b => exact hinv.stepped_withEpoch e ((phaseTable_step_eq_none_iff ..).mp hok) b
  | tblrd sel idx =>
    cases sel with
    | std => rfl
    | prefixTable =>
      have hp := (phaseTable_tblrd_prefixTable_eq_none_iff ..).mp hok
      have hentry : (s.withEpoch e).tableWord .prefixTable idx = s.tableWord .prefixTable idx :=
        (hinv.configured hp).prefixEntry_withEpoch e idx
      rw [completed, hentry]
      rfl
  | _ => rfl

end State

/-! ### A step under other free values -/

section

variable {s t : State} (e : ℕ) (hinv : s.Inv)
include hinv

theorem exec_withEpoch {i : Instr} (h : exec i s = .next t) :
    exec i (s.withEpoch e) = .next (t.withEpoch e) := by
  rcases exec_next h with ⟨herr, rfl⟩ | ⟨hok, hslot, rfl⟩
  · rw [exec_of_phaseTable_error (s := s.withEpoch e) herr, State.recordError_withEpoch]
    rfl
  · rw [exec_of_ok_of_slot (s := s.withEpoch e) hok hslot, hinv.completed_withEpoch e hok]

theorem executeCommand_withEpoch {v : Word} (h : executeCommand v s = .next t) :
    executeCommand v (s.withEpoch e) = .next (t.withEpoch e) := by
  rcases executeCommand_next h with ⟨i, hdec, hexec⟩ | ⟨_, hdec, rfl⟩
  · rw [executeCommand_of_decode hdec, exec_withEpoch e hinv hexec]
  · rw [executeCommand_of_error hdec, State.recordError_withEpoch]

theorem hostWrite_withEpoch {off : BitVec 8} {v : Word} (h : hostWrite off v s = .next t) :
    hostWrite off v (s.withEpoch e) = .next (t.withEpoch e) := by
  by_cases hcmd : off = 0x00#8
  · subst hcmd
    exact executeCommand_withEpoch e hinv h
  by_cases hopa : off = 0x24#8
  · subst hopa
    obtain rfl := Host.Outcome.next.inj h
    rfl
  by_cases hopb : off = 0x28#8
  · subst hopb
    obtain rfl := Host.Outcome.next.inj h
    rfl
  · rw [hostWrite_of_ignored v s hcmd hopa hopb] at h
    obtain rfl := Host.Outcome.next.inj h
    exact hostWrite_of_ignored v _ hcmd hopa hopb

/-- Reset selects the next free values; any other move keeps the selection. -/
theorem serve_withEpoch {m : HostMove} (h : serve m s = .next t) :
    ∃ e', serve m (s.withEpoch e) = .next (t.withEpoch e') := by
  rcases serve_next h with ⟨width, off, rfl, hadmit, rfl⟩ | ⟨width, off, v, rfl, hadmit, hwrite⟩ |
    ⟨rfl, rfl⟩
  · refine ⟨e, ?_⟩
    simp only [serve, hadmit]
    rfl
  · refine ⟨e, ?_⟩
    simp only [serve, hadmit]
    exact hostWrite_withEpoch e hinv hwrite
  · exact ⟨e + 1, rfl⟩

theorem step_withEpoch (h : step s = .next t) :
    ∃ e', step (s.withEpoch e) = .next (t.withEpoch e') := by
  rcases step_next h with ⟨hp, rfl⟩ | ⟨m, rest, hp, hserve⟩
  · exact ⟨e, step_of_idle hp⟩
  · obtain ⟨e', he'⟩ := serve_withEpoch e (hinv.withPending rest) hserve
    exact ⟨e', (step_of_pending (s := s.withEpoch e) hp).trans he'⟩

end

end Sys2Proof.Machine

namespace Sys2Proof.Proofs

open Machine

/-- Settles O51: in phase RUN every slot of the window is written, and in every configured phase
PREFIX is, so no command reads a free value. -/
theorem unspecifiedContentsAreNeverObserved : Obligations.UnspecifiedContentsAreNeverObserved :=
  fun _ _ e hinv => step_withEpoch e hinv

end Sys2Proof.Proofs
end

section
/-! SUPPORT. Whole streams (42_engine.md R173 to R178, 70_reset_and_hazards.md R264): STEPs after
the first window, the checksums a driver reads, and that what a block held before has no part in
them. -/

namespace Sys2Proof.Machine

open Claims

/-! ### The windows of a stream (R177) -/

theorem windowsOf_cons {w : ℕ} (x : Byte) {l : List Byte} (h : w ≤ l.length) :
    windowsOf w (x :: l) = (x :: l).take w :: windowsOf w l := by
  have hlen : (x :: l).length - w + 1 = (l.length - w + 1) + 1 := by
    rw [List.length_cons]
    omega
  rw [windowsOf, hlen, List.range_succ_eq_map, List.map_cons, List.map_map]
  rfl

theorem windowsOf_length (m : List Byte) : windowsOf m.length m = [m] := by
  simp [windowsOf]

/-- The window slides: its oldest byte leaves the stream's front, and the next byte enters. -/
theorem windowsOf_append_cons {m : List Byte} (hm : m ≠ []) (b : Byte) (bs : List Byte) :
    windowsOf m.length (m ++ b :: bs) =
      m :: windowsOf (m.tail ++ [b]).length ((m.tail ++ [b]) ++ bs) := by
  obtain ⟨x, l, rfl⟩ := List.exists_cons_of_ne_nil hm
  have hlen : (l ++ [b]).length = (x :: l).length := by simp
  rw [List.tail_cons, hlen, List.append_assoc, List.singleton_append, List.cons_append,
    windowsOf_cons x (by simp), ← List.cons_append, List.take_left]

theorem drop_append_cons {m : List Byte} (hm : m ≠ []) (b : Byte) (bs : List Byte) :
    (m ++ b :: bs).drop (b :: bs).length = ((m.tail ++ [b]) ++ bs).drop bs.length := by
  obtain ⟨x, l, rfl⟩ := List.exists_cons_of_ne_nil hm
  simp

/-! ### A block that holds a full window -/

/-- The block is in phase RUN with the window `m`, oldest byte first, and ACC is its un-complemented
CRC (R172). -/
structure State.Holds (s : State) (m : List Byte) : Prop where
  rom : s.std = Rom.std
  configured : s.Configured
  phase_eq : s.phase = .run
  window_eq : s.window = m
  acc_eq : s.acc = crc0 m

namespace State

variable {s : State} {m : List Byte}

theorem HoldsFirst.holds (h : s.HoldsFirst m) (hm : m.length = s.wsize.toNat) : s.Holds m :=
  ⟨h.rom, h.configured, h.phase_eq.trans (if_pos hm), h.window_eq hm, h.acc_eq⟩

namespace Holds

theorem length_eq (h : s.Holds m) : m.length = s.wsize.toNat := by
  rw [← h.window_eq, length_window]

theorem ne_nil (h : s.Holds m) : m ≠ [] :=
  List.ne_nil_of_length_pos (h.length_eq ▸ h.configured.wsize_pos)

/-- CRC_OUT is the CRC-32 of the window (R175). -/
theorem crcOut_eq (h : s.Holds m) : s.crcOut = crc32 m := by
  rw [crcOut, h.acc_eq, h.configured.crc0_xor_crcxor h.length_eq]

theorem exec_step (h : s.Holds m) (b : Byte) : exec (.step b) s = .next (s.stepped b) :=
  execStep_of_slot b h.phase_eq h.configured.pos_lt_wmax

theorem stepped (h : s.Holds m) (b : Byte) : (s.stepped b).Holds (m.tail ++ [b]) := by
  have hacc : s.acc = crc0 s.window := h.window_eq ▸ h.acc_eq
  refine ⟨h.rom, h.configured.stepped b, h.phase_eq, ?_, ?_⟩
  · rw [window_stepped b h.configured.pos_lt, h.window_eq]
  · rw [h.configured.acc_stepped h.rom hacc, h.window_eq]

theorem logRead (h : s.Holds m) (v : Word) : (s.logRead v).Holds m :=
  ⟨h.rom, { h.configured with }, h.phase_eq, h.window_eq, h.acc_eq⟩

theorem withPending (h : s.Holds m) (ms : List HostMove) : (s.withPending ms).Holds m :=
  ⟨h.rom, { h.configured with }, h.phase_eq, h.window_eq, h.acc_eq⟩

end Holds

end State

/-! ### Commands in sequence -/

theorem runCommands_append (is js : List Instr) (s : State) :
    runCommands (is ++ js) s = andThen (runCommands is s) (runCommands js) := by
  induction is generalizing s with
  | nil => rfl
  | cons i is ih =>
    rw [List.cons_append, runCommands_cons, runCommands_cons]
    cases exec i s with
    | next t => exact ih t
    | fault f => rfl
    | refused r => rfl

theorem exec_reads {i : Instr} {s t : State} (h : exec i s = .next t) : t.reads = s.reads := by
  rcases exec_next h with ⟨-, rfl⟩ | ⟨-, -, rfl⟩
  · exact s.recordError_reads _
  · exact s.completed_reads i

/-- Commands return nothing to the host. -/
theorem runCommands_reads {is : List Instr} {s t : State} (h : runCommands is s = .next t) :
    t.reads = s.reads := by
  induction is generalizing s with
  | nil => rw [Host.Outcome.next.inj h]
  | cons i is ih =>
    rw [runCommands_cons] at h
    obtain ⟨u, hexec, hrest⟩ := andThen_eq_next h
    exact (ih hrest).trans (exec_reads hexec)

/-- A command that starts a stream, and then no more than W FILLs (R171). -/
theorem runCommands_start_fills {s u : State} {start : Instr} {m : List Byte}
    (hstart : exec start s = .next u.startStream) (hrom : u.std = Rom.std)
    (hc : u.startStream.Configured) (hm : m.length ≤ u.wsize.toNat) :
    ∃ t, runCommands (start :: m.map .fill) s = .next t ∧ t.wsize = u.wsize ∧
      t.HoldsFirst m := by
  obtain ⟨t, hrun, hwsize, ht⟩ :=
    (State.holdsFirst_nil_startStream hrom hc).runCommands_fills m (by simpa using hm)
  exact ⟨t, by rw [runCommands_cons, hstart, andThen_next, hrun], hwsize, ht⟩

theorem runCommands_config_fills {s : State} {w : ℕ} {m : List Byte} (hrom : s.std = Rom.std)
    (hpos : 1 ≤ w) (hmax : w ≤ s.cfg.wmax.toNat) (hm : m.length ≤ w) :
    ∃ t, runCommands (.config w :: m.map .fill) s = .next t ∧ t.wsize.toNat = w ∧
      t.HoldsFirst m := by
  have hw : (s.loadConstants w).wsize.toNat = w := toNat_ofNat_of_le_size hmax
  obtain ⟨t, hrun, hwsize, ht⟩ :=
    runCommands_start_fills (start := .config w) (u := s.loadConstants w)
      (execConfig_of_in_range hpos hmax) hrom (s.configured_of_config hpos hmax) (hw.symm ▸ hm)
  exact ⟨t, hrun, hwsize ▸ hw, ht⟩

theorem runCommands_restart_fills {s : State} {m : List Byte} (hinv : s.Inv)
    (hp : s.phase ≠ .unconfigured) (hm : m.length ≤ s.wsize.toNat) :
    ∃ t, runCommands (.restart :: m.map .fill) s = .next t ∧ t.wsize = s.wsize ∧
      t.HoldsFirst m :=
  runCommands_start_fills (start := .restart) (execRestart_of_configured hp) hinv.rom
    (hinv.configured hp).startStream hm

/-! ### Two blocks on the same stream (70_reset_and_hazards.md R264) -/

/-- Two blocks that hold the same window still do after the same STEPs, and agree on LAST_OUT if
they did before or there was a STEP. -/
theorem runCommands_steps_agree {s1 s2 : State} {m : List Byte} (h1 : s1.Holds m)
    (h2 : s2.Holds m) (bs : List Byte) :
    ∃ t1 t2 m', runCommands (bs.map .step) s1 = .next t1 ∧
      runCommands (bs.map .step) s2 = .next t2 ∧ t1.Holds m' ∧ t2.Holds m' ∧
      (s1.lastOut = s2.lastOut ∨ bs ≠ [] → t1.lastOut = t2.lastOut) := by
  induction bs generalizing s1 s2 m with
  | nil => exact ⟨s1, s2, m, rfl, rfl, h1, h2, fun h => h.resolve_right fun hne => hne rfl⟩
  | cons b bs ih =>
    obtain ⟨t1, t2, m', hrun1, hrun2, ht1, ht2, hlast⟩ := ih (h1.stepped b) (h2.stepped b)
    have hout : (s1.stepped b).lastOut = (s2.stepped b).lastOut := by
      rw [State.stepped_lastOut, State.stepped_lastOut, h1.crcOut_eq, h2.crcOut_eq]
    refine ⟨t1, t2, m', ?_, ?_, ht1, ht2, fun _ => hlast (.inl hout)⟩
    · rw [List.map_cons, runCommands_cons, h1.exec_step b, andThen_next, hrun1]
    · rw [List.map_cons, runCommands_cons, h2.exec_step b, andThen_next, hrun2]

/-- Whatever starts the stream, the first window it loads is all that the STEPs build on. -/
theorem agreeOnNewStream_of_holds {s1 s2 u1 u2 : State} {start : Instr} {m : List Byte}
    (hrun1 : runCommands (start :: m.map .fill) s1 = .next u1)
    (hrun2 : runCommands (start :: m.map .fill) s2 = .next u2)
    (h1 : u1.Holds m) (h2 : u2.Holds m) (ms : List Byte) :
    AgreeOnNewStream start m ms s1 s2 := by
  obtain ⟨t1, t2, m', hsteps1, hsteps2, ht1, ht2, hlast⟩ := runCommands_steps_agree h1 h2 ms
  refine ⟨t1, t2, ?_, ?_, by rw [ht1.crcOut_eq, ht2.crcOut_eq], by rw [ht1.acc_eq, ht2.acc_eq],
    by rw [ht1.window_eq, ht2.window_eq], fun hne => hlast (.inr hne)⟩
  · rw [← List.cons_append, runCommands_append, hrun1, andThen_next, hsteps1]
  · rw [← List.cons_append, runCommands_append, hrun2, andThen_next, hsteps2]

/-! ### The driver (R178) -/

theorem serve_issue {i : Instr} (hi : i.wellFormed = true) (s : State) :
    serve (issue i) s = exec i s :=
  (serve_write_of_aligned (encode i) s rfl).trans (executeCommand_of_decode (decode_encode hi) s)

theorem serve_read_crcOut (s : State) :
    serve (readMove 0x14) s = .next (s.logRead s.crcOut) := rfl

/-- A host that issues commands and nothing else runs them. -/
theorem runMoves_issue {is : List Instr} (his : ∀ i ∈ is, i.wellFormed = true) (s : State) :
    runMoves (is.map issue) s = leaving [] (runCommands is s) := by
  induction is generalizing s with
  | nil => rfl
  | cons i is ih =>
    obtain ⟨hi, his⟩ := List.forall_mem_cons.mp his
    rw [List.map_cons, runMoves_cons, serve_issue hi, runCommands_cons]
    cases exec i s with
    | next t => exact ih his t
    | fault f => rfl
    | refused r => rfl

/-- From a full window on, the driver reads the checksum of each window of what it holds followed by
what it sends. -/
theorem State.Holds.runMoves_steps {s : State} {m : List Byte} (h : s.Holds m) (bs : List Byte) :
    ∃ t, runMoves (readMove 0x14 :: bs.flatMap fun b => [issue (.step b), readMove 0x14]) s =
        .next t ∧ t.Holds ((m ++ bs).drop bs.length) ∧
      t.reads = s.reads ++ (windowsOf m.length (m ++ bs)).map crc32 := by
  induction bs generalizing s m with
  | nil =>
    refine ⟨(s.logRead s.crcOut).withPending [], rfl, ?_, ?_⟩
    · rw [List.append_nil]
      exact (h.logRead _).withPending []
    · rw [List.append_nil, windowsOf_length, List.map_singleton, ← h.crcOut_eq]
      rfl
  | cons b bs ih =>
    have hread := h.logRead s.crcOut
    obtain ⟨t, hrun, hholds, hreads⟩ := ih (hread.stepped b)
    refine ⟨t, ?_, ?_, ?_⟩
    · rw [runMoves_cons, serve_read_crcOut, andThen_next, List.flatMap_cons, List.cons_append,
        List.singleton_append, runMoves_cons, serve_issue rfl, hread.exec_step b, andThen_next,
        hrun]
    · rwa [drop_append_cons h.ne_nil]
    · have hout : ((s.logRead s.crcOut).stepped b).reads = s.reads ++ [crc32 m] := by
        rw [← h.crcOut_eq]
        rfl
      rw [hreads, hout, windowsOf_append_cons h.ne_nil, List.map_cons, List.append_assoc,
        List.singleton_append]

end Sys2Proof.Machine

namespace Sys2Proof.Proofs

open Machine Claims

/-- Settles O48: the first window is loaded, and then each STEP slides it by one byte and its
CRC-32 is read. -/
theorem driverReadsOneChecksumPerWindow : Obligations.DriverReadsOneChecksumPerWindow := by
  intro s w stream hinv hpos hmax hle
  have hlen : (stream.take w).length = w := List.length_take_of_le hle
  have hw : w < 2 ^ 24 := Nat.lt_of_le_of_lt hmax s.cfg.wmax.isLt
  have hwf : ∀ i ∈ Instr.config w :: (stream.take w).map .fill, i.wellFormed = true :=
    List.forall_mem_cons.mpr ⟨decide_eq_true hw, List.forall_mem_map.mpr fun _ _ => rfl⟩
  obtain ⟨u, hfills, hwsize, hfirst⟩ := runCommands_config_fills hinv.rom hpos hmax hlen.le
  have hholds := (hfirst.holds (hlen.trans hwsize.symm)).withPending []
  obtain ⟨t, hsteps, ht, hreads⟩ := hholds.runMoves_steps (stream.drop w)
  rw [List.take_append_drop, List.length_drop] at ht
  rw [List.take_append_drop, hlen] at hreads
  refine ⟨t, ?_, ?_, ht.phase_eq, ht.window_eq, ht.window_eq ▸ ht.crcOut_eq⟩
  · have hmoves : driverMoves w stream =
        (Instr.config w :: (stream.take w).map .fill).map issue ++
          readMove 0x14 :: (stream.drop w).flatMap fun b => [issue (.step b), readMove 0x14] := by
      rw [driverMoves, List.map_cons, List.map_map, List.cons_append]
      rfl
    have hissue := runMoves_issue hwf s
    rw [hfills, leaving_next] at hissue
    rw [hmoves, runMoves_append _ hissue, hsteps]
  · rw [hreads, State.withPending_reads, runCommands_reads hfills]

/-- Settles O49: fewer than W bytes do not complete the first window. -/
theorem shortStreamStaysInFill : Obligations.ShortStreamStaysInFill := by
  intro s w stream hinv hpos hmax hlt
  obtain ⟨t, hrun, rfl, ht⟩ := runCommands_config_fills hinv.rom hpos hmax hlt.le
  exact ⟨t, hrun, ht.phase_eq_fill hlt, ht.pos_eq_length hlt, ht.acc_eq⟩

/-- Settles O50: after W FILLs both blocks hold the same window, and STEPs keep it so. -/
theorem oldStreamNeverReachesTheNewChecksum :
    Obligations.OldStreamNeverReachesTheNewChecksum := by
  refine fun s1 s2 m ms hinv1 hinv2 => ⟨fun hp1 hp2 hw hm => ?_, ?_⟩
  · obtain ⟨u1, hrun1, hwsize1, h1⟩ := runCommands_restart_fills hinv1 hp1 hm.le
    obtain ⟨u2, hrun2, hwsize2, h2⟩ := runCommands_restart_fills hinv2 hp2 (hw ▸ hm).le
    exact agreeOnNewStream_of_holds hrun1 hrun2 (h1.holds (by rw [hm, hwsize1]))
      (h2.holds (by rw [hm, hwsize2, hw])) ms
  · rintro w hpos hmax1 hmax2 rfl
    obtain ⟨u1, hrun1, hwsize1, h1⟩ := runCommands_config_fills hinv1.rom hpos hmax1 le_rfl
    obtain ⟨u2, hrun2, hwsize2, h2⟩ := runCommands_config_fills hinv2.rom hpos hmax2 le_rfl
    exact agreeOnNewStream_of_holds hrun1 hrun2 (h1.holds hwsize1.symm) (h2.holds hwsize2.symm) ms

end Sys2Proof.Proofs
end

section
/-! SUPPORT. Square-and-multiply (40_gf2_arith.md R108, R109). -/

namespace Sys2Proof.Machine.Gf2

/-- Exponents add up. -/
theorem gf2mul_xpow_xpow (a b : ℕ) : gf2mul (xpow a) (xpow b) = xpow (a + b) := by
  rw [gf2mul_xpow, xpow, ← reduceN_add, Nat.add_comm b a, xpow]

theorem x_eq_xpow : x = xpow 1 := by decide

/-- One round squares, which doubles the exponent, and multiplies by x where the bit is a one. -/
theorem squareMultiply_succ_xpow (e i k : ℕ) : squareMultiply e (i + 1) (xpow k) =
    squareMultiply e i (xpow (2 * k + (e.testBit i).toNat)) := by
  rw [squareMultiply, gf2mul_xpow_xpow, x_eq_xpow, gf2mul_xpow_xpow, ← Nat.two_mul]
  cases e.testBit i <;> rfl

/-- The rounds shift the low bits of e into the exponent reached so far. -/
theorem squareMultiply_xpow (e i k : ℕ) :
    squareMultiply e i (xpow k) = xpow (2 ^ i * k + e % 2 ^ i) := by
  induction i generalizing k with
  | zero => rw [squareMultiply, Nat.pow_zero, Nat.one_mul, Nat.mod_one, Nat.add_zero]
  | succ i ih =>
    rw [squareMultiply_succ_xpow, ih, Nat.mod_pow_succ, Nat.toNat_testBit]
    congr 1
    ring

theorem xpowFrom_eq_xpow_mod (e m : ℕ) : xpowFrom m e = xpow (e % 2 ^ (m + 1)) := by
  rw [xpowFrom, show one = xpow 0 from rfl, squareMultiply_xpow, Nat.mul_zero, Nat.zero_add]

theorem xpowFrom_of_log2_le {e m : ℕ} (h : e.log2 ≤ m) : xpowFrom m e = xpow e := by
  have hlt : e < 2 ^ (m + 1) :=
    Nat.lt_of_lt_of_le Nat.lt_log2_self (Nat.pow_le_pow_right (by decide) (by omega))
  rw [xpowFrom_eq_xpow_mod, Nat.mod_eq_of_lt hlt]

end Sys2Proof.Machine.Gf2

namespace Sys2Proof.Proofs

open Machine Machine.Gf2

/-- Settles O4: the loop's running value is a power of x whose exponent takes in the bits of e from
the start bit down. -/
theorem squareAndMultiplyIsXpow : Obligations.SquareAndMultiplyIsXpow :=
  ⟨fun _ _ => xpowFrom_of_log2_le le_rfl, fun _ _ => xpowFrom_of_log2_le, xpowFrom_eq_xpow_mod⟩

end Sys2Proof.Proofs
end

section
/-! SUPPORT. The STATUS word's fields, the byte lanes and the reset values (10_state.md R22, R40;
20_memory.md R52, R57; 60_exceptions.md R221). -/

namespace Sys2Proof.Machine

open Operands

/-! ### The fields of the STATUS word -/

/-- Where the fields of STATUS stand (20_memory.md R52). -/
theorem status_fields (e : BitVec 4) (b : Bool) (p : BitVec 2) :
    (Word.zext (e ++ 0#1 ++ BitVec.ofBool b ++ p)).extractLsb' 0 2 = p ∧
    (Word.zext (e ++ 0#1 ++ BitVec.ofBool b ++ p)).getLsbD 2 = b ∧
    (Word.zext (e ++ 0#1 ++ BitVec.ofBool b ++ p)).getLsbD 3 = false ∧
    (Word.zext (e ++ 0#1 ++ BitVec.ofBool b ++ p)).extractLsb' 4 4 = e ∧
    (Word.zext (e ++ 0#1 ++ BitVec.ofBool b ++ p)).extractLsb' 8 24 = 0#24 := by
  revert e b p
  decide

theorem hostRead_status (s : State) : hostRead 0x04#8 s = s.statusWord := rfl

theorem ErrCode.bits_eq_zero_iff (c : ErrCode) : c.bits = 0#4 ↔ c = .none := by
  cases c <;> decide

/-! ### The byte lanes -/

theorem getLsbD_byteLane (v : Word) (k : ℕ) {i : ℕ} (hi : i < 8) :
    (byteLane v k).getLsbD i = v.getLsbD (8 * k + i) := by
  simp [byteLane, hi]

/-- The lanes are joined from the top down, each below those before it. -/
theorem wordOfLanes_byteLane (v : Word) :
    wordOfLanes (byteLane v 0) (byteLane v 1) (byteLane v 2) (byteLane v 3) = v := by
  have h32 : byteLane v 3 ++ byteLane v 2 = v.extractLsb' 16 16 :=
    BitVec.extractLsb'_append_extractLsb'_eq_extractLsb' (len₁ := 8) (len₂ := 8) rfl
  have h321 : v.extractLsb' 16 16 ++ byteLane v 1 = v.extractLsb' 8 24 :=
    BitVec.extractLsb'_append_extractLsb'_eq_extractLsb' (len₁ := 8) (len₂ := 16) rfl
  rw [wordOfLanes, h32, h321]
  exact BitVec.extractLsb'_append_extractLsb' (w := 24) (len := 8)

/-! ### The reset values -/

/-- Every register at its reset value, WIN and PREFIX unwritten; the parameters, the ROM, the count
of resets and the host's own fields are as given (10_state.md R40). -/
def State.resetWith (c : Config) (std : Table) (epoch : ℕ) (pending : List HostMove)
    (reads : List Word) : State :=
  { State.powerOn c with std := std, epoch := epoch, pending := pending, reads := reads }

theorem State.powerOn_eq_resetWith (c : Config) :
    State.powerOn c = State.resetWith c Rom.std 0 [] [] := rfl

theorem State.afterReset_eq_resetWith (s : State) :
    s.afterReset = State.resetWith s.cfg s.std (s.epoch + 1) s.pending s.reads := rfl

/-- Every offset reads 0 after reset but GEN and CAPS. -/
theorem hostRead_resetWith (c : Config) (std : Table) (epoch : ℕ) (pending : List HostMove)
    (reads : List Word) (off : BitVec 8) :
    hostRead off (State.resetWith c std epoch pending reads) =
      if off = 0x30#8 then 0xEDB88320#32
      else if off = 0x34#8 then BitVec.ofNat 32 c.wmax.toNat else 0#32 := by
  by_cases hgen : off = 0x30#8
  · subst hgen
    rfl
  by_cases hcaps : off = 0x34#8
  · subst hcaps
    exact zext_eq_ofNat c.wmax
  rw [if_neg hgen, if_neg hcaps]
  unfold hostRead
  split
  case h_13 h => exact absurd (BitVec.eq_of_toNat_eq h) hgen
  case h_14 h => exact absurd (BitVec.eq_of_toNat_eq h) hcaps
  case h_2 => exact statusWord_eq _
  case h_6 => exact BitVec.xor_zero
  all_goals rfl

theorem eq_resetWith_of_step_reset {s t : State} {rest : List HostMove}
    (hp : s.pending = .reset :: rest) (h : step s = .next t) :
    t = State.resetWith s.cfg s.std (s.epoch + 1) rest s.reads := by
  rw [step_of_pending hp] at h
  exact (Host.Outcome.next.inj h).symm.trans (State.afterReset_eq_resetWith _)

end Sys2Proof.Machine

namespace Sys2Proof.Proofs

open Machine Machine.Operands

/-- Settles O25: the fields of the STATUS word are the phase, ERR, a zero and the error code, and
each code has its number. -/
theorem statusFieldsAreLaidOut : Obligations.StatusFieldsAreLaidOut := by
  intro s
  obtain ⟨hphase, herr, hzero, hcode, hhigh⟩ := status_fields s.errcode.bits s.err s.phase.bits
  rw [hostRead_status, State.statusWord, hphase, herr, hcode]
  refine ⟨?_, rfl, hzero, ?_, hhigh, fun hinv => ?_⟩
  · cases s.phase <;> rfl
  · cases s.errcode <;> rfl
  · rw [ErrCode.bits_eq_zero_iff]
    exact hinv.errRecord

/-- Settles O39: power-on and a reset move both leave `State.resetWith`, which says all the
values. -/
theorem resetLeavesTheResetValues : Obligations.ResetLeavesTheResetValues := by
  refine ⟨fun t ht => ?_, fun s rest hp => ⟨_, step_of_pending hp, rfl, rfl, rfl, rfl⟩,
    fun c => rfl⟩
  obtain ⟨c, std, epoch, pending, reads, rfl⟩ :
      ∃ c std epoch pending reads, t = State.resetWith c std epoch pending reads := by
    rcases ht with ⟨c, rfl⟩ | ⟨s, rest, hp, hstep⟩
    · exact ⟨c, _, _, _, _, State.powerOn_eq_resetWith c⟩
    · exact ⟨_, _, _, _, _, eq_resetWith_of_step_reset hp hstep⟩
  exact ⟨rfl, rfl, rfl, rfl, rfl, rfl, rfl, rfl, rfl, rfl, rfl, rfl, fun _ => rfl, fun _ => rfl,
    fun off _ => hostRead_resetWith c std epoch pending reads off⟩

/-- Settles O53: lane k is the word's bits from 8k, and the lanes are joined in order. -/
theorem byteLanesAreLittleEndian : Obligations.ByteLanesAreLittleEndian :=
  fun v => ⟨wordOfLanes_byteLane v, fun k _ _ hi => getLsbD_byteLane v k hi⟩

end Sys2Proof.Proofs
end
